-- ==== Sys2Proof/Word.lean ====
section
/-! DEFINITION. The word types of the iLED4 core (spec/00_scope.md R7, R8): bits are numbered from 0, the least
significant; all cell, mask and byte values are unsigned. -/

namespace Sys2Proof

/-- One byte handed to the transport. -/
abbrev Byte := BitVec 8

/-- A segment mask, `MASK_W` = 8 bits (00 R7, R14); bit 7 is the decimal point. -/
abbrev Mask := BitVec 8

/-- One cell of the display buffer, `CELL_W` = 16 bits (00 R7, 10 R20). -/
abbrev CellWord := BitVec 16

/-- One command word, `CMD_W` = 32 bits (30 R81). -/
abbrev CmdWord := BitVec 32

/-- The `val` lines of the command port, `VALUE_W` = 64 bits (30 R85). -/
abbrev ValWord := BitVec 64

end Sys2Proof
end

