-- ==== Sys2Proof/Machine/Params.lean ====
section
/-! DEFINITION. The parameters of the block with the values spec/00_scope.md R7 fixes (audited in
spec/93_implementation_defined.md section 3), and the command bytes and character codes of spec/30_encoding.md. -/

namespace Sys2Proof.Machine

/-- A base `RENDER` can accept (00 R7, 42 R151). -/
inductive Base where
  | bin
  | oct
  | dec
  | hex
  deriving DecidableEq, Repr

/-- The parameters of 00 R7 whose values the spec fixes, one field each; `CFG_VARIANT`, `DEV_ADDR` and `GLYPH`, which it
leaves to an implementation, are the other fields of `Config`. A width is the width of a type of Word.lean (log entry
21). -/
structure Params where
  /-- `NDIGITS`: visible digit columns. -/
  numDigits : Nat
  /-- `NCELLS`: cells of the display buffer that operations can write. -/
  numCells : Nat
  /-- `NSNAP`: cells serialised in a snapshot. -/
  numSnapCells : Nat
  /-- `CELL_W`: the width of `CellWord`. -/
  cellWidth : Nat
  /-- `MASK_W`: the width of `Mask`. -/
  maskWidth : Nat
  /-- `DP_BIT`: the decimal-point bit of a digit cell. -/
  dotBit : Nat
  /-- `COLON_BIT`: the colon-on bit of cell 4. -/
  colonBit : Nat
  /-- `MINUS`: the raw mask of the minus sign, no entry of the Glyph Table (40 R124, 90 C1). -/
  minus : Mask
  /-- `BLANK`: the raw mask of an unlit column (40 R124). -/
  blank : Mask
  /-- `BASES`: the bases `RENDER` accepts. -/
  bases : List Base
  /-- `REG_DISPLAY`: the header byte of a snapshot write. -/
  regDisplay : Byte
  /-- `VALUE_W`: the width of `ValWord`. -/
  valueWidth : Nat
  /-- `VALUE_F`: fraction bits of the `val` operand (30 R85). -/
  valueFracBits : Nat
  /-- `FRAC_W`: the width of the fractional-digits field. -/
  fracWidth : Nat
  /-- `CMD_W`: the width of `CmdWord`. -/
  cmdWidth : Nat
  /-- `CURSOR_MAX`: the saturation value of the cursor (D12). -/
  cursorMax : BitVec 3
  deriving DecidableEq, Repr

/-- The third column of the table of 00 R7. -/
def Params.spec : Params where
  numDigits := 4
  numCells := 5
  numSnapCells := 8
  cellWidth := 16
  maskWidth := 8
  dotBit := 7
  colonBit := 0
  minus := 0x40
  blank := 0x00
  bases := [.bin, .oct, .dec, .hex]
  regDisplay := 0x00
  valueWidth := 64
  valueFracBits := 32
  fracWidth := 8
  cmdWidth := 32
  cursorMax := 5

/-- The power-on command byte (30 R100). -/
def powerOnByte : Byte := 0x21
/-- The base of the display and blink command, and the display-off byte (30 R100). -/
def displayOffByte : Byte := 0x80
/-- The display-on byte: the base with the enable bit (30 R100). -/
def displayOnByte : Byte := 0x81
/-- The base of the brightness command (30 R100). -/
def brightnessBase : Byte := 0xE0
/-- The brightness ceiling (30 R102). -/
def brightnessMax : Nat := 15
/-- The highest blink-rate code (30 R101). -/
def blinkMax : Nat := 3

/-- Character codes of `WR_CHAR` (30 R105). -/
def codeNewline : Nat := 0x0A
def codeReturn : Nat := 0x0D
def codeZero : Nat := 0x30
def codeNine : Nat := 0x39

end Sys2Proof.Machine
end

