-- ==== Sys2Proof/Config.lean ====
section
/-! DEFINITION. What an implementation fixes (spec/00_scope.md R7, spec/10_state.md R29, R31) and the free values: what
the spec leaves open and the model never chooses. A free value is an opaque constant with no body: no proof can see it. -/

namespace Sys2Proof

/-- Which renderer `RENDER` runs: `CFG_VARIANT` (00 R7, 10 R29). -/
inductive Variant where
  /-- Variant A, fixed-point (42_render_a.md). -/
  | a
  /-- Variant B, string-formatting (43_render_b.md). -/
  | b
  deriving DecidableEq, Repr, Inhabited

/-- What the transport answers to one write (00 R10, 20 R60). -/
inductive Answer where
  | ok
  | fail
  deriving DecidableEq, Repr, Inhabited

/-- `GLYPH[0..15]`: sixteen segment masks, indexed by digit value (10 R31). -/
abbrev GlyphTable := Vector Mask 16

/-- The configuration: every parameter of 00 R7 a field, constant over a run, written by no command (10 R29, R31). The
spec calls them parameters of the step function; `exec` and `step` take no argument for them, so State holds them (log
entry 3, DESIGN CHOICE). -/
structure Config where
  /-- The parameters whose values the spec fixes. -/
  params : Machine.Params
  /-- They have the values of the third column of 00 R7, in every configuration there is (log entry 21). -/
  fixed : params = Machine.Params.spec
  /-- `CFG_VARIANT`. -/
  variant : Variant
  /-- `DEV_ADDR`, the 7-bit device address handed to the transport. -/
  devAddr : BitVec 7
  /-- `GLYPH`, the Glyph Table. -/
  glyph : GlyphTable
  deriving DecidableEq, Repr

/-- The constraints 40 R121 puts on a Glyph Table: (a) bit 7 clear, (b) entries distinct and none blank, (c) none the
minus sign. -/
abbrev GlyphTable.Valid (t : GlyphTable) : Prop :=
  (∀ d : Fin 16, t[d].getLsbD 7 = false) ∧ (∀ d e : Fin 16, t[d] = t[e] → d = e) ∧
    (∀ d : Fin 16, t[d] ≠ 0x00) ∧ (∀ d : Fin 16, t[d] ≠ 0x40)

/-- FREE VALUE (log entry 3). The setting of the `CFG_VARIANT` strap at reset: the spec gives no default (00 R7, D7). -/
opaque Config.strapVariant : Variant

/-- FREE VALUE (log entry 2). The answer of the transport to the `n`-th write, where the input queue of State names
none: the transport is outside the block and answers as it likes (20 R60). -/
opaque Config.transportAnswer (n : Nat) : Answer

/-- FREE VALUE (log entry 7). The byte at address `a` of the device's display memory while its image is *any value*
(10 R36), as it is after `n` transport writes and resets. -/
opaque Config.deviceByte (n a : Nat) : Byte

/-- FREE VALUE (log entry 15). Whether the assembler rounds up a literal `(2k+1)/2^33` that lies half-way between two
`val` words: 30 R95 says "round_to_nearest" and names no rule for the tie. -/
opaque Config.assemblerTie (k : Int) : Bool

end Sys2Proof
end

