-- ==== Sys2Proof/Syntax.lean ====
section
/-! DEFINITION. The command set: one constructor of `Instr` per row of spec/opcode_table.json (spec/30_encoding.md R82),
and what the host hands over at the command port (30 R80, R92). -/

namespace Sys2Proof

/-- One transaction of the command port: `cmd[31:0]` with `val[63:0]` beside it (30 R80, R92). -/
structure Command where
  cmd : CmdWord
  val : ValWord
  deriving DecidableEq, Repr

/-- A decoded command with its operands (30 R82). Positions, digits, counts, levels, rates, bases and character codes
are numbers, as the rules treat them; a raw mask and `val` are words. `push` is the `P` bit (30 R84), `dot` and `on` the
`F` bit. -/
inductive Instr where
  /-- `WR_DIGIT[.P] pos, mask [, DOT]` (41 R131). -/
  | wrDigit (push dot : Bool) (pos : Nat) (mask : Mask)
  /-- `WR_GLYPH[.P] pos, digit [, DOT]` (40 R123). -/
  | wrGlyph (push dot : Bool) (pos digit : Nat)
  /-- `WR_COLON[.P] ON|OFF` (41 R133). -/
  | wrColon (push on : Bool)
  /-- `SET_DOT[.P] pos, ON|OFF` (41 R134). -/
  | setDot (push on : Bool) (pos : Nat)
  /-- `CLEAR[.P]` (41 R135). -/
  | clear (push : Bool)
  /-- `NOP` (41 R136). -/
  | nop
  /-- `FLUSH` (41 R136). -/
  | flush
  /-- `RENDER value, frac, base`, `value` on the `val` lines (42 R150). -/
  | render (frac base : Nat) (val : ValWord)
  /-- `BEGIN` (44 R210). -/
  | facadeBegin
  /-- `DISP_ON` (44 R211). -/
  | dispOn
  /-- `DISP_OFF` (44 R212). -/
  | dispOff
  /-- `SET_BRIGHT level` (44 R213). -/
  | setBright (level : Nat)
  /-- `SET_BLINK rate` (44 R214). -/
  | setBlink (rate : Nat)
  /-- `WR_CHAR[.P] c` (44 R225). -/
  | wrChar (push : Bool) (code : Nat)
  deriving DecidableEq, Repr

/-- The rows of the opcode table by name: what a command word selects before its operands are read (30 R83). -/
inductive Row where
  | wrDigit | wrGlyph | wrColon | setDot | clear | nop | flush | render
  | facadeBegin | dispOn | dispOff | setBright | setBlink | wrChar
  deriving DecidableEq, Repr

/-- The row an instruction stands for. -/
def Instr.row : Instr → Row
  | .wrDigit _ _ _ _ => .wrDigit
  | .wrGlyph _ _ _ _ => .wrGlyph
  | .wrColon _ _ => .wrColon
  | .setDot _ _ _ => .setDot
  | .clear _ => .clear
  | .nop => .nop
  | .flush => .flush
  | .render _ _ _ => .render
  | .facadeBegin => .facadeBegin
  | .dispOn => .dispOn
  | .dispOff => .dispOff
  | .setBright _ => .setBright
  | .setBlink _ => .setBlink
  | .wrChar _ _ => .wrChar

end Sys2Proof
end

