-- ==== Sys2Proof/WellFormed.lean ====
section
/-! DEFINITION. Which instructions the command word can carry: every number operand sits in an 8-bit field
(spec/30_encoding.md R81, R86, R87; log entry 11). Values outside the documented ranges (a position above 4, a digit
above 15, an unsupported base) are well-formed: the rules give them a meaning. -/

namespace Sys2Proof

/-- An operand that fits an 8-bit field, 0..255 (30 R87). -/
def fitsField (n : Nat) : Bool := decide (n < 256)

/-- A count of fractional digits that fits `FRAC_W` bits (00 R7, D6). -/
def fitsFrac (n : Nat) : Bool := decide (n < 2 ^ Machine.Params.spec.fracWidth)

/-- Every number operand fits its field. -/
def Instr.wellFormed : Instr → Bool
  | .wrDigit _ _ pos _ => fitsField pos
  | .wrGlyph _ _ pos digit => fitsField pos && fitsField digit
  | .wrColon _ _ => true
  | .setDot _ _ pos => fitsField pos
  | .clear _ => true
  | .nop => true
  | .flush => true
  | .render frac base _ => fitsFrac frac && fitsField base
  | .facadeBegin => true
  | .dispOn => true
  | .dispOff => true
  | .setBright level => fitsField level
  | .setBlink rate => fitsField rate
  | .wrChar _ code => fitsField code

/-- `Instr.wellFormed` as a proposition. -/
abbrev Instr.WellFormed (i : Instr) : Prop := i.wellFormed = true

end Sys2Proof
end

