-- ==== Sys2Proof/Decode.lean ====
section
/-! DEFINITION. The decoder of the command port, total on every 32-bit word (spec/30_encoding.md R81 to R89, and the
match and mask of spec/opcode_table.json), the encoder beside it, and the table's own numbering of an instruction's bits. -/

namespace Sys2Proof

/-- Why a word is no command (30 R89). The block answers all three alike, with `ILLEGAL_COMMAND`. -/
inductive DecodeError where
  /-- `OP` is 0x0, 0xE or 0xF. -/
  | reservedOpcode
  /-- Bits 26:25 or 7:0 are not zero. -/
  | reservedBits
  /-- A field the opcode does not use is not zero. -/
  | unusedField
  deriving DecidableEq, Repr

/-- The rows in the table's order. -/
def rows : List Row :=
  [.wrDigit, .wrGlyph, .wrColon, .setDot, .clear, .nop, .flush, .render,
   .facadeBegin, .dispOn, .dispOff, .setBright, .setBlink, .wrChar]

/-- The row's "match" in spec/opcode_table.json. -/
def Row.pattern : Row → CmdWord
  | .wrDigit => 0x10000000
  | .wrGlyph => 0x20000000
  | .wrColon => 0x30000000
  | .setDot => 0x40000000
  | .clear => 0x50000000
  | .nop => 0x60000000
  | .flush => 0x68000000
  | .render => 0x70000000
  | .facadeBegin => 0x80000000
  | .dispOn => 0x90000000
  | .dispOff => 0xA0000000
  | .setBright => 0xB0000000
  | .setBlink => 0xC0000000
  | .wrChar => 0xD0000000

/-- The row's "mask" in spec/opcode_table.json: the bits that must agree with the match. -/
def Row.mask : Row → CmdWord
  | .wrDigit => 0xF60000FF
  | .wrGlyph => 0xF60000FF
  | .wrColon => 0xF6FFFFFF
  | .setDot => 0xF600FFFF
  | .clear => 0xF7FFFFFF
  | .nop => 0xFFFFFFFF
  | .flush => 0xFFFFFFFF
  | .render => 0xFF0000FF
  | .facadeBegin => 0xFFFFFFFF
  | .dispOn => 0xFFFFFFFF
  | .dispOff => 0xFFFFFFFF
  | .setBright => 0xFF00FFFF
  | .setBlink => 0xFF00FFFF
  | .wrChar => 0xF700FFFF

/-- A word selects a row when it agrees with the row's match on the row's mask (30 R83). -/
def Row.selects (r : Row) (w : CmdWord) : Bool := w &&& r.mask == r.pattern

/-- The fields of a command word (30 R81). -/
def opField (w : CmdWord) : BitVec 4 := w.extractLsb' 28 4
/-- Bit 27, `P`: push after. -/
def pField (w : CmdWord) : Bool := w.getLsbD 27
/-- Bit 24, `F`: `dotOn` or `on`. -/
def fField (w : CmdWord) : Bool := w.getLsbD 24
/-- Bits 23:16, `A`. -/
def aField (w : CmdWord) : BitVec 8 := w.extractLsb' 16 8
/-- Bits 15:8, `B`. -/
def bField (w : CmdWord) : BitVec 8 := w.extractLsb' 8 8

/-- The operands each row reads (30 R82). Only RENDER reads `val` (30 R85). -/
def Row.operands (r : Row) (c : Command) : Instr :=
  match r with
  | .wrDigit => .wrDigit (pField c.cmd) (fField c.cmd) (aField c.cmd).toNat (bField c.cmd)
  | .wrGlyph => .wrGlyph (pField c.cmd) (fField c.cmd) (aField c.cmd).toNat (bField c.cmd).toNat
  | .wrColon => .wrColon (pField c.cmd) (fField c.cmd)
  | .setDot => .setDot (pField c.cmd) (fField c.cmd) (aField c.cmd).toNat
  | .clear => .clear (pField c.cmd)
  | .nop => .nop
  | .flush => .flush
  | .render => .render (aField c.cmd).toNat (bField c.cmd).toNat c.val
  | .facadeBegin => .facadeBegin
  | .dispOn => .dispOn
  | .dispOff => .dispOff
  | .setBright => .setBright (aField c.cmd).toNat
  | .setBlink => .setBlink (aField c.cmd).toNat
  | .wrChar => .wrChar (pField c.cmd) (aField c.cmd).toNat

/-- Which clause of 30 R89 a word that selects no row falls under; the first that applies. -/
def illegalReason (w : CmdWord) : DecodeError :=
  if opField w = 0x0 ∨ opField w = 0xE ∨ opField w = 0xF then .reservedOpcode
  else if w.extractLsb' 25 2 ≠ 0 ∨ w.extractLsb' 0 8 ≠ 0 then .reservedBits
  else .unusedField

/-- The decoder (30 R82, R83, R89): the one row the word selects, with its operands; else illegal, with the reason. -/
def decode (c : Command) : Except DecodeError Instr :=
  match rows.find? (fun r => r.selects c.cmd) with
  | some r => .ok (r.operands c)
  | none => .error (illegalReason c.cmd)

/-- A command word from its fields (30 R81): `{OP, P, 00, F, A, B, 00000000}`. -/
def packWord (op : BitVec 4) (p f : Bool) (a b : BitVec 8) : CmdWord :=
  (op ++ BitVec.ofBool p ++ 0#2 ++ BitVec.ofBool f ++ a ++ b ++ 0#8).setWidth 32

/-- A number operand in its 8-bit field. -/
def field8 (n : Nat) : BitVec 8 := BitVec.ofNat 8 n

/-- The command word of an instruction (30 R81, R82). -/
def encodeWord : Instr → CmdWord
  | .wrDigit push dot pos mask => packWord 0x1 push dot (field8 pos) mask
  | .wrGlyph push dot pos digit => packWord 0x2 push dot (field8 pos) (field8 digit)
  | .wrColon push on => packWord 0x3 push on 0 0
  | .setDot push on pos => packWord 0x4 push on (field8 pos) 0
  | .clear push => packWord 0x5 push false 0 0
  | .nop => packWord 0x6 false false 0 0
  | .flush => packWord 0x6 true false 0 0
  | .render frac base _ => packWord 0x7 false false (field8 frac) (field8 base)
  | .facadeBegin => packWord 0x8 false false 0 0
  | .dispOn => packWord 0x9 false false 0 0
  | .dispOff => packWord 0xA false false 0 0
  | .setBright level => packWord 0xB false false (field8 level) 0
  | .setBlink rate => packWord 0xC false false (field8 rate) 0
  | .wrChar push code => packWord 0xD push false (field8 code) 0

/-- The `val` lines an instruction needs: RENDER's value, and zero where `val` is ignored (30 R82, R92). -/
def encodeVal : Instr → ValWord
  | .wrDigit _ _ _ _ => 0
  | .wrGlyph _ _ _ _ => 0
  | .wrColon _ _ => 0
  | .setDot _ _ _ => 0
  | .clear _ => 0
  | .nop => 0
  | .flush => 0
  | .render _ _ val => val
  | .facadeBegin => 0
  | .dispOn => 0
  | .dispOff => 0
  | .setBright _ => 0
  | .setBlink _ => 0
  | .wrChar _ _ => 0

/-- The encoder: the transaction that carries an instruction. -/
def encode (i : Instr) : Command := ⟨encodeWord i, encodeVal i⟩

/-- The transaction of an instruction whose bits are `w`, numbered as spec/opcode_table.json numbers them: `cmd` is
bits 31..0 and `val`, the words after it, bits 95..32 (30 R92); bits from `nbits` on are zero. -/
def tableCommand (nbits w : Nat) : Command :=
  ⟨BitVec.ofNat 32 (w % 2 ^ nbits), BitVec.ofNat 64 (w % 2 ^ nbits / 2 ^ 32)⟩

/-- The instruction this decoder reads from the bits `w`, where it reads one. -/
def decodeTableWord (nbits w : Nat) : Option Instr := (decode (tableCommand nbits w)).toOption

end Sys2Proof
end

