-- ==== Sys2Proof/Machine/Defaults.lean ====
section
/-! DEFINITION. The configuration at reset: the defaults of spec/00_scope.md R7 and spec/40_glyph.md R122. -/

namespace Sys2Proof.Machine

/-- The default Glyph Table (40 R122): from general knowledge, as the spec says itself (log entry 5, PRESUMED). -/
def defaultGlyph : GlyphTable :=
  #v[0x3F, 0x06, 0x5B, 0x4F, 0x66, 0x6D, 0x7D, 0x07, 0x7F, 0x6F, 0x77, 0x7C, 0x39, 0x5E, 0x79, 0x71]

/-- The default device address (00 R7, 10 R29). -/
def defaultDevAddr : BitVec 7 := 0x70

/-- The configuration at reset: the strap is free (00 R7, log entry 3), the address and the table are the spec's
defaults (log entries 4 and 5). -/
def resetConfig : Config := ⟨Params.spec, rfl, Config.strapVariant, defaultDevAddr, defaultGlyph⟩

end Sys2Proof.Machine
end

