-- ==== Sys2Proof/Machine/State.lean ====
section
/-! DEFINITION. The state of the machine as plain data (spec/10_state.md), the reasons a step could stop, and reset. -/

namespace Sys2Proof.Machine

/-- The display buffer `buf`: five 16-bit cells (10 R20), the block's register file. -/
structure Buf where
  /-- `buf[0]`, `DIG0`, the leftmost digit column (10 R22). -/
  dig0 : CellWord
  /-- `buf[1]`, `DIG1`. -/
  dig1 : CellWord
  /-- `buf[2]`, `DIG2`. -/
  dig2 : CellWord
  /-- `buf[3]`, `DIG3`, the rightmost digit column. -/
  dig3 : CellWord
  /-- `buf[4]`, `COLON`; bit 0 is the colon (10 R23). -/
  colon : CellWord
  deriving DecidableEq, Repr

/-- `fstate`, the Facade state, one bit: 0 Uninitialized, 1 Active (10 R26). -/
inductive FState where
  | uninitialized
  | active
  deriving DecidableEq, Repr

/-- The status of a response (30 R93). Codes 5..7 are never produced. -/
inductive Status where
  /-- 0: every command that finishes. -/
  | ok
  /-- 1: the word is no command (60 R247). -/
  | illegalCommand
  /-- 2: RENDER with a base not in {2, 8, 10, 16} (60 R243). -/
  | unsupportedBase
  /-- 3: WR_GLYPH with a digit above 15 (60 R246). -/
  | outOfRange
  /-- 4: a transport write answered `fail` (60 R245). -/
  | transportFailure
  deriving DecidableEq, Repr

/-- One response: `resp[3] = written`, `resp[2:0] = status` (30 R93). -/
structure Response where
  written : Bool
  status : Status
  deriving DecidableEq, Repr

/-- One entry of the transport trace: `MemWrite(dev, n, bytes)` with the answer it got, `n` the length of `bytes`
(10 R34). -/
structure Transfer where
  dev : BitVec 7
  bytes : List Byte
  answer : Answer
  deriving DecidableEq, Repr

/-- What the host does next at the block's inputs: present a command (30 R80) or signal reset (70 R270). -/
inductive HostEvent where
  | command (c : Command)
  | reset
  deriving DecidableEq, Repr

/-- The device's display memory as far as it is known: (address, byte) pairs, addresses strictly rising; an unlisted
address is *any value* (10 R36). -/
abbrev Memory := List Host.Cell

/-- The state of the block, its two observation lists (10 R34), the device image (10 R36), and the MODEL's own input
queues and counter (`host`, `answers`, `free`; log entries 1, 2, 13). -/
structure State where
  /-- The display buffer (10 R20). -/
  buf : Buf
  /-- The cursor of the sequential write, 3 bits (10 R25). -/
  cursor : BitVec 3
  /-- The Facade state (10 R26). -/
  fstate : FState
  /-- The configuration inputs, constant over a run (10 R29, R31). -/
  cfg : Config
  /-- The responses given since reset, oldest first (60 R240). -/
  responses : List Response
  /-- The transport writes issued since reset, oldest first (10 R34). -/
  trace : List Transfer
  /-- The device image (10 R36). -/
  device : Memory
  /-- MODEL: what the host presents next, in order (10 R27). -/
  host : List HostEvent
  /-- MODEL: what the transport answers to the coming writes, in order (20 R60). -/
  answers : List Answer
  /-- MODEL: the counter behind the free values; each transport write and each reset advances it. -/
  free : Nat
  deriving DecidableEq, Repr

/-- Reasons a step stops with a fault: none. The block never stops; every error is a status in a response, and the next
command runs (60 R245(d), R250; log entry 14). -/
inductive Fault : Type where
  deriving DecidableEq, Repr

/-- Reasons a step is refused. -/
inductive Refusal where
  /-- Raised by an arm of `exec` whose instruction has no meaning yet; safe (it stops). No arm raises it now. -/
  | notModelled (mnemonic : String)
  deriving DecidableEq, Repr

/-- All five cells blank (10 R35). -/
def Buf.zero : Buf := ⟨0, 0, 0, 0, 0⟩

/-- The machine right after reset (10 R35, 70 R270): Uninitialized, cells and cursor zero, trace empty, device image
any value; nothing presented, nothing answered. -/
def State.reset : State where
  buf := Buf.zero
  cursor := 0
  fstate := .uninitialized
  cfg := resetConfig
  responses := []
  trace := []
  device := []
  host := []
  answers := []
  free := 0

end Sys2Proof.Machine
end

