-- ==== Sys2Proof/Machine/Flags.lean ====
section
/-! DEFINITION. There are no flags (spec/10_state.md R28): no command leaves a status bit behind for a later one. What a
command reports instead is its response; this file gives its four bits (spec/30_encoding.md R93). -/

namespace Sys2Proof.Machine

/-- The status code, `resp[2:0]` (30 R93). -/
def statusCode : Status → BitVec 3
  | .ok => 0
  | .illegalCommand => 1
  | .unsupportedBase => 2
  | .outOfRange => 3
  | .transportFailure => 4

/-- The response lines `resp[3:0] = {written, status}` (30 R93). -/
def responseBits (r : Response) : BitVec 4 := BitVec.ofBool r.written ++ statusCode r.status

end Sys2Proof.Machine
end

