-- ==== Sys2Proof/Machine/Operands.lean ====
section
/-! DEFINITION. Every operand form of the command set (spec/30_encoding.md R85 to R87, R101, R102, R104, R105). -/

namespace Sys2Proof.Machine

/-- The sign of `value = sint(val) / 2^32`: `value < 0` (30 R85, 42 R152). Zero is not negative. -/
def valueNeg (val : ValWord) : Bool := decide (val.toInt < 0)

/-- `abs(value)` in units of `2^-32`: the numerator of `m = abs(sint(val)) / 2^32` (30 R85, 42 R152). -/
def valueMag (val : ValWord) : Nat := val.toInt.natAbs

/-- The number a base is. -/
def radix : Base → Nat
  | .bin => 2
  | .oct => 8
  | .dec => 10
  | .hex => 16

/-- The base a number names, if it is one of `BASES` (42 R151). -/
def baseOf (cfg : Config) (n : Nat) : Option Base := cfg.params.bases.find? (fun b => radix b == n)

/-- The mask of the bit `DP_BIT` (00 R7). -/
def dotMask (cfg : Config) : Mask := 1 <<< cfg.params.dotBit

/-- What `dotOn` adds to a mask: `dot ? 0x80 : 0x00` (30 R104). -/
def dotBits (cfg : Config) (dot : Bool) : Mask := if dot then dotMask cfg else 0x00

/-- The value a mask with its dot gives a cell: zero-extended, high byte zero (30 R104, 10 R37). -/
def cellOf (cfg : Config) (mask : Mask) (dot : Bool) : CellWord := (mask ||| dotBits cfg dot).setWidth 16

/-- The colon cell written by `WR_COLON`: the bit `COLON_BIT` alone, or zero (41 R133). -/
def colonCell (cfg : Config) (on : Bool) : CellWord := if on then 1 <<< cfg.params.colonBit else 0x0000

/-- The brightness command byte of a level, clamped to 15 (44 R213). -/
def brightnessByte (level : Nat) : Byte := brightnessBase ||| BitVec.ofNat 8 (min level brightnessMax)

/-- The blink-rate code of an operand: above 3 coerced to 0, off (44 R214). -/
def blinkCode (rate : Nat) : Nat := if rate > blinkMax then 0 else rate

/-- The blink-rate command byte `0x80 | 0x01 | (r << 1)` (44 R214). -/
def blinkByte (rate : Nat) : Byte := 0x80 ||| 0x01 ||| (BitVec.ofNat 8 (blinkCode rate) <<< 1)

/-- Newline or carriage return (30 R105). -/
def isNewline (code : Nat) : Bool := code == codeNewline || code == codeReturn

/-- A digit character, `'0'..'9'` (30 R105). -/
def isDigitChar (code : Nat) : Bool := decide (codeZero ≤ code) && decide (code ≤ codeNine)

/-- The digit value `c - 0x30` of a digit character (30 R105). -/
def charDigit (code : Nat) : Fin 16 := Fin.ofNat 16 (code - codeZero)

/-- `GLYPH[d]` for a digit value known to be in 0..15 (40 R120). -/
def glyph (t : GlyphTable) (d : Fin 16) : Mask := t[d]

/-- `glyphFor(digit)`: the glyph, or nothing where it fails with `OutOfRange`, digit above 15 (40 R120). -/
def glyphFor (t : GlyphTable) (digit : Nat) : Option Mask :=
  if h : digit < 16 then some (glyph t ⟨digit, h⟩) else none

end Sys2Proof.Machine
end

