-- ==== Sys2Proof/Machine/Ops.lean ====
section
/-! DEFINITION. The named operations over the cells, the transport, the device image and the response
(spec/20_memory.md, spec/60_exceptions.md); every command's meaning is made of them. -/

namespace Sys2Proof.Machine

/-! ### Cells -/

/-- `buf[p]`; cells 5, 6, 7 do not exist as storage and read as zero in the snapshot (10 R24). -/
def Buf.get (b : Buf) : Nat → CellWord
  | 0 => b.dig0
  | 1 => b.dig1
  | 2 => b.dig2
  | 3 => b.dig3
  | 4 => b.colon
  | _ + 5 => 0x0000

/-- `buf[p] <- v` for a cell that exists, nothing else (20 R50). -/
def Buf.set (b : Buf) (p : Nat) (v : CellWord) : Buf :=
  match p with
  | 0 => { b with dig0 := v }
  | 1 => { b with dig1 := v }
  | 2 => { b with dig2 := v }
  | 3 => { b with dig3 := v }
  | 4 => { b with colon := v }
  | _ + 5 => b

/-- `CellWrite(p, v)` over the integers: write if `0 <= p <= 4`, one of the `NCELLS` cells, else nothing (20 R50 to
R52). -/
def Buf.cellWrite (cfg : Config) (b : Buf) (p : Int) (v : CellWord) : Buf :=
  if 0 ≤ p ∧ p < cfg.params.numCells then b.set p.toNat v else b

/-- The body of `SET_DOT` at a digit column: bit 7 set or cleared, the other 15 bits as they were (41 R134). -/
def dotCell (cfg : Config) (on : Bool) (c : CellWord) : CellWord :=
  if on then c ||| (dotMask cfg).setWidth 16 else c &&& ~~~(dotMask cfg).setWidth 16

/-- The body of `SET_DOT` (41 R134): a digit column, positions 0..3, by its bit; position 4 as `WR_COLON`; above 4
nothing. -/
def Buf.setDot (cfg : Config) (b : Buf) (on : Bool) (pos : Nat) : Buf :=
  if pos < cfg.params.numDigits then b.set pos (dotCell cfg on (b.get pos))
  else if pos = 4 then b.set 4 (colonCell cfg on)
  else b

/-- One cell as two bytes, low byte first (20 R55). -/
def cellBytes (c : CellWord) : List Byte := [c.extractLsb' 0 8, c.extractLsb' 8 8]

/-- `Snapshot()`: the eight cells, little-endian, 16 bytes (20 R55). -/
def snapshot (cfg : Config) (b : Buf) : List Byte :=
  (List.range cfg.params.numSnapCells).flatMap (fun i => cellBytes (b.get i))

/-- The 17 bytes of a push: header and snapshot (20 R56). -/
def pushBytes (cfg : Config) (b : Buf) : List Byte := cfg.params.regDisplay :: snapshot cfg b

/-- The error pattern dash, dash, blank, dash in the digit cells, the colon cell as it was (42 R160). -/
def Buf.errorPattern (cfg : Config) (b : Buf) : Buf :=
  { b with
    dig0 := cellOf cfg cfg.params.minus false
    dig1 := cellOf cfg cfg.params.minus false
    dig2 := cellOf cfg cfg.params.blank false
    dig3 := cellOf cfg cfg.params.minus false }

/-! ### The device's display memory -/

/-- What is known to stand at address `a`; nothing where the byte is *any value* (10 R36). -/
def Memory.read : Memory → Nat → Option Byte
  | [], _ => none
  | (a', v) :: m, a => if a' = a then some v else Memory.read m a

/-- One byte written at `a`, the list kept strictly rising. -/
def Memory.write : Memory → Nat → Byte → Memory
  | [], a, v => [(a, v)]
  | (a', v') :: m, a, v =>
    if a < a' then (a, v) :: (a', v') :: m
    else if a = a' then (a, v) :: m
    else (a', v') :: Memory.write m a v

/-- Consecutive bytes written from `a` up. -/
def Memory.writeBytes : Memory → Nat → List Byte → Memory
  | m, _, [] => m
  | m, a, v :: vs => Memory.writeBytes (Memory.write m a v) (a + 1) vs

/-- The canonical form: addresses strictly rising. An unlisted address reads as no byte at all, so no entry can equal
what it reads as. -/
def Memory.wf (m : Memory) : Bool := decide (List.Pairwise (fun x y : Host.Cell => x.1 < y.1) m)

/-- The device image after a transport write (10 R36). A write answered `fail` leaves every byte *any value*. An
accepted snapshot sets the display memory, in every state of the device: before its power-on byte 0x21 (log entry 22,
DESIGN CHOICE: 44 R216 and 70 R273 leave open what the device does with it there) and while its display is disabled (log
entry 23, DESIGN CHOICE: 60 R258 leaves open what it retains), as 10 R36 reads. An accepted display-off byte leaves every
byte *any value*: what the device keeps while disabled is not in the source (60 R258, 44 R212; log entry 8, DESIGN
CHOICE). Any other accepted command byte, power-on among them, leaves the image (log entry 8, DEDUCED). -/
def deviceAfter (cfg : Config) (bytes : List Byte) (a : Answer) (m : Memory) : Memory :=
  match a with
  | .fail => []
  | .ok =>
    match bytes with
    | [] => m
    | r :: data =>
      if r = cfg.params.regDisplay then Memory.writeBytes m 0 data
      else if r = displayOffByte then []
      else m

/-- The byte the device holds at `a`: the known one, or a free value (10 R36, log entry 7). -/
def deviceByte (s : State) (a : Nat) : Byte :=
  match Memory.read s.device a with
  | some v => v
  | none => Config.deviceByte s.free a

/-! ### The state's fields -/

/-- Replace the display buffer. -/
def State.setBuf (s : State) (b : Buf) : State := { s with buf := b }
/-- Replace the cursor. -/
def State.setCursor (s : State) (k : BitVec 3) : State := { s with cursor := k }
/-- Replace the Facade state. -/
def State.setFstate (s : State) (f : FState) : State := { s with fstate := f }
/-- Replace what the host presents next. -/
def State.setHost (s : State) (h : List HostEvent) : State := { s with host := h }
/-- Give a response (60 R240). -/
def State.respond (s : State) (r : Response) : State := { s with responses := s.responses ++ [r] }

/-- `CellWrite(p, v)` on the machine (20 R50). -/
def State.cellWrite (s : State) (p : Int) (v : CellWord) : State := s.setBuf (s.buf.cellWrite s.cfg p v)

/-! ### The transport -/

/-- The answer the transport gives to the next write: the next one of the input queue, or a free value where the queue
is empty (20 R60, log entry 2). -/
def State.nextAnswer (s : State) : Answer :=
  match s.answers with
  | a :: _ => a
  | [] => Config.transportAnswer s.free

/-- `MemWrite(DEV_ADDR, n, bytes)`: the write is issued, completes and is recorded with its answer (00 R10, 10 R34). -/
def State.memWrite (s : State) (bytes : List Byte) : State :=
  { s with
    trace := s.trace ++ [⟨s.cfg.devAddr, bytes, s.nextAnswer⟩]
    device := deviceAfter s.cfg bytes s.nextAnswer s.device
    answers := s.answers.tail
    free := s.free + 1 }

/-! ### Errors -/

/-- How far a command has come: its state, and `ok` or the status of what it raised (00 R11). -/
structure Progress where
  state : State
  status : Status
  deriving DecidableEq, Repr

/-- The command has not raised anything. -/
def proceed (s : State) : Progress := ⟨s, .ok⟩

/-- `raise E`: the command ends here, state written so far stays, nothing further happens (00 R11, 60 R240). -/
def raise (e : Status) (s : State) : Progress := ⟨s, e⟩

/-- The next part of a command, done only if nothing was raised before it (00 R11). -/
def andThen (r : Progress) (k : State → Progress) : Progress := if r.status = .ok then k r.state else r

/-- `Xw(bytes)`: one transport write, raising `TransportFailure` on `fail` (00 R10, 60 R245). -/
def xw (bytes : List Byte) (s : State) : Progress :=
  if s.nextAnswer = .ok then proceed (s.memWrite bytes) else raise .transportFailure (s.memWrite bytes)

/-- `Push()` (20 R56): the snapshot is that of the buffer at this moment. -/
def push (s : State) : Progress := xw (pushBytes s.cfg s.buf) s

/-- `if P = 1 then Push()` (30 R84, 41 R130). -/
def pushIf (p : Bool) (s : State) : Progress := if p then push s else proceed s

/-- `Cmd1(b)`: a single-byte command write (20 R57). -/
def cmd1 (b : Byte) (s : State) : Progress := xw [b] s

/-- The command ends: its one response is given, with the status of what it raised, or `OK` (60 R240, R249). -/
def finish (written : Bool) (r : Progress) : Host.Outcome State Fault Refusal :=
  .next (r.state.respond ⟨written, r.status⟩)

/-! ### What is not a command -/

/-- An illegal word: no state change, no transport write, status `ILLEGAL_COMMAND`, `written = 0` (60 R247). -/
def illegalWord (s : State) : Host.Outcome State Fault Refusal := finish false (raise .illegalCommand s)

/-- Reset (10 R35, 70 R270): the block's state and the observation lists as at reset, the device image any value. What
is outside the block goes on: the configuration, what the host presents next, the answers to come (log entry 9). -/
def resetBlock (s : State) : State :=
  { State.reset with cfg := s.cfg, host := s.host, answers := s.answers, free := s.free + 1 }

end Sys2Proof.Machine
end

