-- ==== Sys2Proof/Machine/Buffer.lean ====
section
/-! DEFINITION. The Display Buffer commands (spec/41_buffer.md): each does its own work on `buf`, then pushes if `P` is
set (R130). -/

namespace Sys2Proof.Machine

/-- `WR_DIGIT[.P] pos, mask [, DOT]` (41 R131). -/
def execWrDigit (p dot : Bool) (pos : Nat) (mask : Mask) (s : State) : Host.Outcome State Fault Refusal :=
  finish false (pushIf p (s.cellWrite pos (cellOf s.cfg mask dot)))

/-- `WR_COLON[.P] ON|OFF` (41 R133): the whole colon cell is replaced. -/
def execWrColon (p on : Bool) (s : State) : Host.Outcome State Fault Refusal :=
  finish false (pushIf p (s.setBuf (s.buf.set 4 (colonCell s.cfg on))))

/-- `SET_DOT[.P] pos, ON|OFF` (41 R134). -/
def execSetDot (p on : Bool) (pos : Nat) (s : State) : Host.Outcome State Fault Refusal :=
  finish false (pushIf p (s.setBuf (s.buf.setDot s.cfg on pos)))

/-- `CLEAR[.P]` (41 R135). -/
def execClear (p : Bool) (s : State) : Host.Outcome State Fault Refusal :=
  finish false (pushIf p (s.setBuf Buf.zero))

/-- `NOP` (41 R136): nothing at all. -/
def execNop (s : State) : Host.Outcome State Fault Refusal := finish false (pushIf false s)

/-- `FLUSH` (41 R136): the push and nothing else. -/
def execFlush (s : State) : Host.Outcome State Fault Refusal := finish false (pushIf true s)

end Sys2Proof.Machine
end

