-- ==== Sys2Proof/Machine/Facade.lean ====
section
/-! DEFINITION. The Controller Facade commands (spec/44_facade.md). -/

namespace Sys2Proof.Machine

/-- `BEGIN` (44 R210): power on, blink rate off, brightness maximum, then Active; the first write that fails ends it. -/
def execBegin (s : State) : Host.Outcome State Fault Refusal :=
  finish false <|
    andThen (cmd1 powerOnByte s) fun s₁ =>
    andThen (cmd1 (blinkByte 0) s₁) fun s₂ =>
    andThen (cmd1 (brightnessByte brightnessMax) s₂) fun s₃ =>
    proceed (s₃.setFstate .active)

/-- `DISP_ON` (44 R211). -/
def execDispOn (s : State) : Host.Outcome State Fault Refusal := finish false (cmd1 displayOnByte s)

/-- `DISP_OFF` (44 R212). -/
def execDispOff (s : State) : Host.Outcome State Fault Refusal := finish false (cmd1 displayOffByte s)

/-- `SET_BRIGHT level` (44 R213). -/
def execSetBright (level : Nat) (s : State) : Host.Outcome State Fault Refusal :=
  finish false (cmd1 (brightnessByte level) s)

/-- `SET_BLINK rate` (44 R214). -/
def execSetBlink (rate : Nat) (s : State) : Host.Outcome State Fault Refusal :=
  finish false (cmd1 (blinkByte rate) s)

/-- `Advance(k)`, the cursor's walk 0, 1, 3, 4, 5, 5, saturating at `CURSOR_MAX` (44 R226). -/
def advanceCursor (cfg : Config) (k : BitVec 3) : BitVec 3 :=
  let next := if k < cfg.params.cursorMax then k + 1 else cfg.params.cursorMax
  if next = 2 then 3 else next

/-- The characters `WR_CHAR` finds meaningful, the `written` bit of its response (44 R229). -/
def charWritten (code : Nat) : Bool := isNewline code || isDigitChar code

/-- What `WR_CHAR` does before its push (44 R225, R227, R228). -/
def charBody (code : Nat) (s : State) : State :=
  if isNewline code then s.setCursor 0
  else if isDigitChar code then
    (s.cellWrite (s.cursor.toNat : Int) (cellOf s.cfg (glyph s.cfg.glyph (charDigit code)) false)).setCursor
      (advanceCursor s.cfg s.cursor)
  else s

/-- `WR_CHAR[.P] c` (44 R225). -/
def execWrChar (p : Bool) (code : Nat) (s : State) : Host.Outcome State Fault Refusal :=
  finish (charWritten code) (pushIf p (charBody code s))

end Sys2Proof.Machine
end

