-- ==== Sys2Proof/Machine/Glyph.lean ====
section
/-! DEFINITION. WR_GLYPH (spec/40_glyph.md R123). -/

namespace Sys2Proof.Machine

/-- `WR_GLYPH[.P] pos, digit [, DOT]` (40 R123): the range check comes before any effect, the push included. -/
def execWrGlyph (p dot : Bool) (pos digit : Nat) (s : State) : Host.Outcome State Fault Refusal :=
  finish false <|
    match glyphFor s.cfg.glyph digit with
    | none => raise .outOfRange s
    | some mask => pushIf p (s.cellWrite pos (cellOf s.cfg mask dot))

end Sys2Proof.Machine
end

