-- ==== Sys2Proof/Machine/RenderA.lean ====
section
/-! DEFINITION. RENDER, Variant A: the fixed-point renderer (spec/42_render_a.md section 2). `m` is `abs(value)` in units
of `2^-32`, so every quantity is a natural number and exact (R169). -/

namespace Sys2Proof.Machine

/-- `floor(scaled(f)) = floor(m * b^f + 1/2)` (42 R153, R157), exact. -/
def scaledFloor (cfg : Config) (m b f : Nat) : Nat :=
  (2 * (m * b ^ f) + 2 ^ cfg.params.valueFracBits) / 2 ^ (cfg.params.valueFracBits + 1)

/-- The digit slots: one is reserved for the sign of a negative value (42 R152). -/
def slots (cfg : Config) (neg : Bool) : Nat := if neg then cfg.params.numDigits - 1 else cfg.params.numDigits

/-- Automatic reduction of the fractional digits (42 R155): the first `f`, from `frac` down, whose scaled value is below
the bound; none where even `f = 0` does not fit, numeric overflow (42 R156). -/
def reduceFrac (cfg : Config) (m b bound : Nat) : Nat → Option Nat
  | 0 => if scaledFloor cfg m b 0 ≥ bound then none else some 0
  | f + 1 => if scaledFloor cfg m b (f + 1) ≥ bound then reduceFrac cfg m b bound f else some (f + 1)

/-- The least `k' ≥ k` with `N < b^k'`, tried `fuel` times. -/
def ndigitsFrom (b N : Nat) : Nat → Nat → Nat
  | 0, k => k
  | fuel + 1, k => if N < b ^ k then k else ndigitsFrom b N fuel (k + 1)

/-- `ndigits(N, b)`, the least `k` with `N < b^k` (00 R12). -/
def ndigits (N b : Nat) : Nat := ndigitsFrom b N (N + 1) 0

/-- `n = max(ndigits(N, b), f + 1)`, the digits emitted (42 R159). -/
def numEmitted (N b f : Nat) : Nat := max (ndigits N b) (f + 1)

/-- `d_i = (N div b^i) mod b`, the `i`-th digit from the right (42 R161). -/
def digitValue (N b i : Nat) : Fin 16 := Fin.ofNat 16 (N / b ^ i % b)

/-- Digit `i` carries the dot exactly when `f > 0` and `i = f` (42 R162). -/
def dotAt (f i : Nat) : Bool := decide (f > 0) && decide (i = f)

/-- The position of slot `i` counted from the right, `3 - i` over the integers (10 R22, 20 R51). -/
def slotPos (cfg : Config) (i : Nat) : Int := (cfg.params.numDigits : Int) - 1 - i

/-- One digit of step 8, placed at `3 - i`; dropped when that is negative (42 R163). -/
def paintDigit (cfg : Config) (N b f : Nat) (buf : Buf) (i : Nat) : Buf :=
  buf.cellWrite cfg (slotPos cfg i) (cellOf cfg (glyph cfg.glyph (digitValue N b i)) (dotAt f i))

/-- Step 8: digits `0 .. n-1`, right to left (42 R161 to R163). -/
def paintDigits (cfg : Config) (N b f n : Nat) (buf : Buf) : Buf :=
  (List.range n).foldl (paintDigit cfg N b f) buf

/-- Step 9: the minus sign left of the highest digit, dropped when there is no slot (42 R164). -/
def paintSign (cfg : Config) (neg : Bool) (n : Nat) (buf : Buf) : Buf :=
  if neg then buf.cellWrite cfg (slotPos cfg n) (cellOf cfg cfg.params.minus false) else buf

/-- Step 10: blanks at the slots `k .. 3` counted from the right (42 R165). -/
def paintBlanks (cfg : Config) (k : Nat) (buf : Buf) : Buf :=
  (List.range' k (cfg.params.numDigits - k)).foldl
    (fun b j => b.cellWrite cfg (slotPos cfg j) (cellOf cfg cfg.params.blank false)) buf

/-- Variant A in full (42 R168). -/
def renderA (cfg : Config) (neg : Bool) (m frac b : Nat) (buf : Buf) : Buf :=
  match reduceFrac cfg m b (b ^ slots cfg neg) frac with
  | none => buf.errorPattern cfg
  | some f =>
    let N := scaledFloor cfg m b f
    let n := numEmitted N b f
    paintBlanks cfg (if neg then n + 1 else n) (paintSign cfg neg n (paintDigits cfg N b f n buf))

end Sys2Proof.Machine
end

