-- ==== Sys2Proof/Machine/RenderB.lean ====
section
/-! DEFINITION. RENDER, Variant B: the string-formatting renderer (spec/43_render_b.md). The text is transient; its
characters are named by what the scanner does with them (R187; log entry 12). `m` is `abs(value)` in units of `2^-32`. -/

namespace Sys2Proof.Machine

/-- A character of the formatted text (00 R13, 43 R187). -/
inductive TextChar where
  /-- `0`..`9`, `a`..`f`, by its `hexval`. -/
  | digit (d : Fin 16)
  /-- `.` -/
  | point
  /-- `-` -/
  | minus
  /-- Any other character, upper-case letters among them (D18); `formatB` produces none. -/
  | other
  deriving DecidableEq, Repr

/-- The base-`b` digits of `N`, least significant first, none for 0; `fuel` bounds their number. -/
def digitsLow (b : Nat) : Nat → Nat → List (Fin 16)
  | 0, _ => []
  | fuel + 1, N => if N = 0 then [] else Fin.ofNat 16 (N % b) :: digitsLow b fuel (N / b)

/-- The base-`b` digits of `N`, most significant first, left-padded with `0` to at least `width` characters. -/
def digitsPadded (b N width : Nat) : List (Fin 16) :=
  let low := digitsLow b N N
  List.replicate (width - low.length) 0 ++ low.reverse

/-- Base 10: `frac` fractional digits, halves rounded away from zero, at least one digit before the point (43 R181). -/
def formatDec (cfg : Config) (m frac : Nat) : List TextChar :=
  let digits := (digitsPadded 10 (scaledFloor cfg m 10 frac) (frac + 1)).map TextChar.digit
  if frac = 0 then digits
  else digits.take (digits.length - frac) ++ .point :: digits.drop (digits.length - frac)

/-- Bases 2, 8, 16: the integer part, the fraction discarded, `0` for zero (43 R182). -/
def formatInt (cfg : Config) (m b : Nat) : List TextChar :=
  (digitsPadded b (m / 2 ^ cfg.params.valueFracBits) 1).map TextChar.digit

/-- `FormatB(value, frac, base)` (43 R181 to R183): the sign is that of the value as given. -/
def formatB (cfg : Config) (neg : Bool) (m frac b : Nat) : List TextChar :=
  (if neg then [.minus] else []) ++ (if b = 10 then formatDec cfg m frac else formatInt cfg m b)

/-- A character the pre-scan counts: a real digit or the sign (43 R185). -/
def isMeaningful : TextChar → Bool
  | .digit _ => true
  | .point => false
  | .minus => true
  | .other => false

/-- `pad = max(0, 4 - count)` (43 R185). -/
def padOf (cfg : Config) (text : List TextChar) : Nat := cfg.params.numDigits - text.countP isMeaningful

/-- The mask of a slot-filling character (43 R187). -/
def charMask (cfg : Config) : TextChar → Mask
  | .digit d => glyph cfg.glyph d
  | .point => cfg.params.blank
  | .minus => cfg.params.minus
  | .other => cfg.params.blank

/-- The decimal point: honoured while 1 or 2 slots have been filled (43 R188, D17, 90 C6). -/
def placePoint (cfg : Config) (pad p : Nat) (out : List Mask) : List Mask :=
  if 1 ≤ p - pad ∧ p - pad ≤ 2 then out.modify (p - 1) (· ||| dotMask cfg) else out

/-- The scan loop (43 R186 to R189): `p` is the next cell to fill; a slot-filling character met with `p = 4` ends it. -/
def scan (cfg : Config) (pad : Nat) : List TextChar → Nat → List Mask → List Mask
  | [], _, out => out
  | .point :: rest, p, out => scan cfg pad rest p (placePoint cfg pad p out)
  | .digit d :: rest, p, out =>
    if p = cfg.params.numDigits then out else scan cfg pad rest (p + 1) (out.set p (charMask cfg (.digit d)))
  | .minus :: rest, p, out =>
    if p = cfg.params.numDigits then out else scan cfg pad rest (p + 1) (out.set p (charMask cfg .minus))
  | .other :: rest, p, out =>
    if p = cfg.params.numDigits then out else scan cfg pad rest (p + 1) (out.set p (charMask cfg .other))

/-- `ScanB(text)`: the four masks (43 R185 to R189). -/
def scanB (cfg : Config) (text : List TextChar) : List Mask :=
  scan cfg (padOf cfg text) text (padOf cfg text) (List.replicate cfg.params.numDigits cfg.params.blank)

/-- The paint: all four digit cells, the colon cell as it was (43 R190). -/
def paintImage (cfg : Config) (out : List Mask) (buf : Buf) : Buf :=
  { buf with
    dig0 := cellOf cfg (out.getD 0 cfg.params.blank) false
    dig1 := cellOf cfg (out.getD 1 cfg.params.blank) false
    dig2 := cellOf cfg (out.getD 2 cfg.params.blank) false
    dig3 := cellOf cfg (out.getD 3 cfg.params.blank) false }

/-- Variant B in full (43 R192). -/
def renderB (cfg : Config) (neg : Bool) (m frac b : Nat) (buf : Buf) : Buf :=
  paintImage cfg (scanB cfg (formatB cfg neg m frac b)) buf

end Sys2Proof.Machine
end

