-- ==== Sys2Proof/Machine/Render.lean ====
section
/-! DEFINITION. RENDER, common to both variants (spec/42_render_a.md R150, R151, R166, R167). -/

namespace Sys2Proof.Machine

/-- The repaint of the digit cells by the variant the strap selects (42 R150). -/
def paintValue (cfg : Config) (val : ValWord) (frac : Nat) (b : Base) (buf : Buf) : Buf :=
  match cfg.variant with
  | .a => renderA cfg (valueNeg val) (valueMag val) frac (radix b) buf
  | .b => renderB cfg (valueNeg val) (valueMag val) frac (radix b) buf

/-- `RENDER value, frac, base` (42 R150): the base check first, then the repaint, then one push on every path. -/
def execRender (frac base : Nat) (val : ValWord) (s : State) : Host.Outcome State Fault Refusal :=
  finish false <|
    match baseOf s.cfg base with
    | none => raise .unsupportedBase s
    | some b => push (s.setBuf (paintValue s.cfg val frac b s.buf))

end Sys2Proof.Machine
end

