-- ==== Sys2Proof/Machine/Dispatch.lean ====
section
/-! DEFINITION. One arm per constructor of `Instr`, each a direct call of that command's meaning. -/

namespace Sys2Proof.Machine

def exec (i : Instr) (s : State) : Host.Outcome State Fault Refusal :=
  match i with
  | .wrDigit push dot pos mask => Sys2Proof.Machine.execWrDigit push dot pos mask s
  | .wrGlyph push dot pos digit => Sys2Proof.Machine.execWrGlyph push dot pos digit s
  | .wrColon push on => Sys2Proof.Machine.execWrColon push on s
  | .setDot push on pos => Sys2Proof.Machine.execSetDot push on pos s
  | .clear push => Sys2Proof.Machine.execClear push s
  | .nop => Sys2Proof.Machine.execNop s
  | .flush => Sys2Proof.Machine.execFlush s
  | .render frac base val => Sys2Proof.Machine.execRender frac base val s
  | .facadeBegin => Sys2Proof.Machine.execBegin s
  | .dispOn => Sys2Proof.Machine.execDispOn s
  | .dispOff => Sys2Proof.Machine.execDispOff s
  | .setBright level => Sys2Proof.Machine.execSetBright level s
  | .setBlink rate => Sys2Proof.Machine.execSetBlink rate s
  | .wrChar push code => Sys2Proof.Machine.execWrChar push code s

end Sys2Proof.Machine
end

