-- ==== Sys2Proof/Machine/Port.lean ====
section
/-! DEFINITION. The command port (spec/30_encoding.md R80, R89; spec/10_state.md R27): what the block does with the next
thing its host does. -/

namespace Sys2Proof.Machine

/-- One command taken from the port: decode, then run it or answer it illegal (60 R248 (1)). -/
def runCommand (c : Command) (s : State) : Host.Outcome State Fault Refusal :=
  match decode c with
  | .ok i => exec i s
  | .error _ => illegalWord s

/-- What the block does at its inputs: with nothing presented it waits (70 R270, log entry 1); a command is taken off
the queue and run to its end; reset resets. -/
def servePort (s : State) : Host.Outcome State Fault Refusal :=
  match s.host with
  | [] => .next s
  | .command c :: rest => runCommand c (s.setHost rest)
  | .reset :: rest => .next (resetBlock (s.setHost rest))

/-- The host presents `c` next, before anything it was going to present (log entry 1). -/
def presentNext (c : Command) (s : State) : State := s.setHost (.command c :: s.host)

end Sys2Proof.Machine
end

