-- ==== Sys2Proof/Machine/Step.lean ====
section
/-! DEFINITION. One step of the machine: one event at the block's inputs, from its beginning to its end
(spec/20_memory.md R61). There is no program counter and nothing is fetched (spec/10_state.md R27). -/

namespace Sys2Proof.Machine

/-- One step. -/
def step (s : State) : Host.Outcome State Fault Refusal := servePort s

/-- `s` with the instruction whose bits are `w` presented at the command port as the next command, so that the next step
runs it. -/
def State.withFetchWord (s : State) (nbits w : Nat) : State := presentNext (tableCommand nbits w) s

end Sys2Proof.Machine
end

