-- ==== Sys2Proof/Machine/Assembler.lean ====
section
/-! DEFINITION. The assembler syntax and the document's operation names as pseudo-commands (spec/30_encoding.md R95, R96).
No step of the machine uses this file: it says which instruction a line of the spec's own notation stands for. -/

namespace Sys2Proof.Machine

/-- Why a line is not assembled. -/
inductive AsmError where
  /-- The first word is no mnemonic of 30 R95. -/
  | unknownMnemonic
  /-- `.P` on a command that has no `[.P]`. -/
  | noPushForm
  /-- The operands are not those of the command. -/
  | badOperands
  /-- A number does not fit its field, or a literal lies outside the range of `val` (30 R85, R95). -/
  | outOfRange
  deriving DecidableEq, Repr

/-- An exact rational literal, `num / den` (30 R95). -/
structure Literal where
  num : Int
  den : Nat
  deriving DecidableEq, Repr

/-- The `val` word of a literal: `round_to_nearest(value * 2^32)`, refused outside `[-2^31, 2^31 - 2^-32]` (30 R95). A
literal half-way between two words goes to either, by a free value (log entry 15). -/
def valueWord (v : Literal) : Option ValWord :=
  let scale : Int := 2 ^ Params.spec.valueFracBits
  let top : Int := 2 ^ (Params.spec.valueWidth - 1)
  if v.den = 0 then none
  else if v.num * scale < -top * (v.den : Int) ∨ v.num * scale > (top - 1) * (v.den : Int) then none
  else
    let twice := 2 * v.num * scale + (v.den : Int)
    let up := twice / (2 * (v.den : Int))
    if twice % (2 * (v.den : Int)) = 0 ∧ Config.assemblerTie (up - 1) = false then some (BitVec.ofInt 64 (up - 1))
    else some (BitVec.ofInt 64 up)

/-! ### Reading one line -/

/-- Blanks at either end taken off. -/
def trimBlanks (cs : List Char) : List Char :=
  ((cs.dropWhile (· == ' ')).reverse.dropWhile (· == ' ')).reverse

/-- The parts of a line between the occurrences of `sep`. -/
def splitAtChar (sep : Char) : List Char → List (List Char)
  | [] => [[]]
  | c :: cs =>
    match splitAtChar sep cs with
    | [] => [[c]]
    | p :: ps => if c = sep then [] :: p :: ps else (c :: p) :: ps

/-- The value of a digit character in a base up to 16. -/
def digitOfChar (base : Nat) (c : Char) : Option Nat :=
  let n := c.toNat
  let d := if 48 ≤ n ∧ n ≤ 57 then n - 48 else if 97 ≤ n ∧ n ≤ 102 then n - 87 else if 65 ≤ n ∧ n ≤ 70 then n - 55 else 16
  if d < base then some d else none

/-- A non-empty run of digits. -/
def readDigits (base : Nat) (cs : List Char) : Option Nat :=
  if cs = [] then none
  else cs.foldl (fun acc c => match acc, digitOfChar base c with
    | some n, some d => some (n * base + d)
    | _, _ => none) (some 0)

/-- A number, decimal or `0x` hexadecimal (30 R95). -/
def readNumber : List Char → Option Nat
  | '0' :: 'x' :: cs => readDigits 16 cs
  | cs => readDigits 10 cs

/-- A magnitude literal: `d`, `d.d` or `p/q` (30 R95). -/
def readMagnitude (cs : List Char) : Option Literal :=
  match splitAtChar '/' cs with
  | [p, q] =>
    match readDigits 10 p, readDigits 10 q with
    | some a, some b => some ⟨a, b⟩
    | _, _ => none
  | _ =>
    match splitAtChar '.' cs with
    | [w] => (readDigits 10 w).map (fun a => ⟨(a : Int), 1⟩)
    | [w, f] =>
      match readDigits 10 w, readDigits 10 f with
      | some a, some b => some ⟨((a * 10 ^ f.length + b : Nat) : Int), 10 ^ f.length⟩
      | _, _ => none
    | _ => none

/-- A value literal with its sign (30 R95). -/
def readLiteral : List Char → Option Literal
  | '-' :: cs => (readMagnitude cs).map (fun v => ⟨-v.num, v.den⟩)
  | cs => readMagnitude cs

/-- `WR_CHAR`'s operand: a code, `'c'`, `'\n'` or `'\r'` (30 R95, R105). -/
def readCharCode : List Char → Option Nat
  | ['\'', '\\', 'n', '\''] => some codeNewline
  | ['\'', '\\', 'r', '\''] => some codeReturn
  | ['\'', c, '\''] => some c.toNat
  | cs => readNumber cs

/-- `ON` or `OFF`. -/
def readOnOff : List Char → Option Bool
  | ['O', 'N'] => some true
  | ['O', 'F', 'F'] => some false
  | _ => none

/-- The mnemonic of a line, with its `.P` taken off (30 R95). -/
def readMnemonic (cs : List Char) : List Char × Bool :=
  match cs.reverse with
  | 'P' :: '.' :: rest => (rest.reverse, true)
  | _ => (cs, false)

/-- An instruction whose operands fit, else `outOfRange` (30 R87). -/
def inRange (i : Instr) : Except AsmError Instr := if i.wellFormed then .ok i else .error .outOfRange

/-- `pos, mask [, DOT]` of `WR_DIGIT` and `pos, digit [, DOT]` of `WR_GLYPH`. -/
def readCellOperands (ops : List (List Char)) : Option (Nat × Nat × Bool) :=
  match ops with
  | [a, b] => match readNumber a, readNumber b with
    | some x, some y => some (x, y, false)
    | _, _ => none
  | [a, b, d] => match readNumber a, readNumber b with
    | some x, some y => if d = ['D', 'O', 'T'] then some (x, y, true) else none
    | _, _ => none
  | _ => none

/-- The operands of a command that has a `[.P]` form (30 R95). `whole` is the operand text before it is split. -/
def assemblePushing (row : Row) (p : Bool) (whole : List Char) (ops : List (List Char)) : Except AsmError Instr :=
  match row, ops with
  | .wrDigit, ops => match readCellOperands ops with
    | some (x, y, dot) => if fitsField y then inRange (.wrDigit p dot x (field8 y)) else .error .outOfRange
    | none => .error .badOperands
  | .wrGlyph, ops => match readCellOperands ops with
    | some (x, y, dot) => inRange (.wrGlyph p dot x y)
    | none => .error .badOperands
  | .wrColon, [o] => match readOnOff o with
    | some on => .ok (.wrColon p on)
    | none => .error .badOperands
  | .setDot, [a, o] => match readNumber a, readOnOff o with
    | some x, some on => inRange (.setDot p on x)
    | _, _ => .error .badOperands
  | .clear, [[]] => .ok (.clear p)
  | .wrChar, _ => match readCharCode whole with
    | some c => inRange (.wrChar p c)
    | none => .error .badOperands
  | _, _ => .error .badOperands

/-- The operands of a command without a `[.P]` form (30 R95). -/
def assemblePlain (row : Row) (ops : List (List Char)) : Except AsmError Instr :=
  match row, ops with
  | .nop, [[]] => .ok .nop
  | .flush, [[]] => .ok .flush
  | .facadeBegin, [[]] => .ok .facadeBegin
  | .dispOn, [[]] => .ok .dispOn
  | .dispOff, [[]] => .ok .dispOff
  | .setBright, [a] => match readNumber a with
    | some x => inRange (.setBright x)
    | none => .error .badOperands
  | .setBlink, [a] => match readNumber a with
    | some x => inRange (.setBlink x)
    | none => .error .badOperands
  | .render, [v, f, b] => match readLiteral v, readNumber f, readNumber b with
    | some lit, some frac, some base => match valueWord lit with
      | some val => inRange (.render frac base val)
      | none => .error .outOfRange
    | _, _, _ => .error .badOperands
  | _, _ => .error .badOperands

/-- The mnemonics with a `[.P]` form. -/
def pushingMnemonics : List (String × Row) :=
  [("WR_DIGIT", .wrDigit), ("WR_GLYPH", .wrGlyph), ("WR_COLON", .wrColon), ("SET_DOT", .setDot), ("CLEAR", .clear),
   ("WR_CHAR", .wrChar)]

/-- The mnemonics without one. -/
def plainMnemonics : List (String × Row) :=
  [("NOP", .nop), ("FLUSH", .flush), ("RENDER", .render), ("BEGIN", .facadeBegin), ("DISP_ON", .dispOn),
   ("DISP_OFF", .dispOff), ("SET_BRIGHT", .setBright), ("SET_BLINK", .setBlink)]

/-- The row of a mnemonic in a list. -/
def findMnemonic (table : List (String × Row)) (name : List Char) : Option Row :=
  (table.find? (fun e => e.1.toList == name)).map (·.2)

/-- One line of the assembler: the mnemonic, and the operands separated by commas (30 R95). -/
def assembleChars (cs : List Char) : Except AsmError Instr :=
  let line := trimBlanks cs
  let (name, p) := readMnemonic (line.takeWhile (· != ' '))
  let whole := trimBlanks (line.dropWhile (· != ' '))
  let ops := (splitAtChar ',' whole).map trimBlanks
  match findMnemonic pushingMnemonics name with
  | some row => assemblePushing row p whole ops
  | none =>
    match findMnemonic plainMnemonics name with
    | some row => if p then .error .noPushForm else assemblePlain row ops
    | none => .error .unknownMnemonic

/-- One line of the assembler as text. -/
def assemble (line : String) : Except AsmError Instr := assembleChars line.toList

/-! ### The document's operation names (30 R96) -/

/-- `glyphFor(d)` then `writeDigit(p, .., dot)`. -/
def docGlyphDigit (p d : Nat) (dot : Bool) : Instr := .wrGlyph false dot p d
/-- `writeDigit(p, m, dot)`. -/
def docWriteDigit (p : Nat) (m : Mask) (dot : Bool) : Instr := .wrDigit false dot p m
/-- `writeColon(on)`. -/
def docWriteColon (on : Bool) : Instr := .wrColon false on
/-- `setDot(p, on)`, buffer level: no push. -/
def docSetDot (p : Nat) (on : Bool) : Instr := .setDot false on p
/-- `showDot(p, on)`, Facade level: whether it pushes is not in the source, so it is an argument. -/
def docShowDot (push : Bool) (p : Nat) (on : Bool) : Instr := .setDot push on p
/-- `clear()`: same remark. -/
def docClear (push : Bool) : Instr := .clear push
/-- `snapshot()` and the transport write. -/
def docSnapshotWrite : Instr := .flush
/-- `render(v, f, b)`: always pushes. -/
def docRender (val : ValWord) (f b : Nat) : Instr := .render f b val
/-- `begin()`. -/
def docBegin : Instr := .facadeBegin
/-- `turnOn`. -/
def docTurnOn : Instr := .dispOn
/-- `turnOff`. -/
def docTurnOff : Instr := .dispOff
/-- `setBrightness(n)`. -/
def docSetBrightness (n : Nat) : Instr := .setBright n
/-- `setBlinkRate(r)`. -/
def docSetBlinkRate (r : Nat) : Instr := .setBlink r
/-- `writeSingleChar(c)`: same remark as `showDot`. -/
def docWriteSingleChar (push : Bool) (c : Nat) : Instr := .wrChar push c

end Sys2Proof.Machine
end

