-- ==== Sys2Proof/Safety.lean ====
section
/-! DEFINITION. What the claims speak of: the invariants of the machine (spec/10_state.md R25, R36, R37;
spec/30_encoding.md R100), what a command reports and sends, and the reading back of a painted number
(spec/42_render_a.md R171). No step uses this file. -/

namespace Sys2Proof.Machine

/-! ### Invariants -/

/-- The high byte of a cell is zero (10 R37). -/
abbrev highByteZero (c : CellWord) : Prop := c.extractLsb' 8 8 = 0

/-- Every cell's high byte is zero (10 R37). -/
abbrev CellsNarrow (b : Buf) : Prop :=
  highByteZero b.dig0 ∧ highByteZero b.dig1 ∧ highByteZero b.dig2 ∧ highByteZero b.dig3 ∧ highByteZero b.colon

/-- The cursor holds one of its reachable values (10 R25). -/
abbrev CursorLegal (k : BitVec 3) : Prop := k = 0 ∨ k = 1 ∨ k = 3 ∨ k = 4 ∨ k = 5

/-- A snapshot write of narrow cells: header, then low byte and zero for each cell, then six zeros (30 R103). -/
abbrev IsSnapshotWrite (bs : List Byte) : Prop :=
  ∃ c0 c1 c2 c3 c4 : Byte, bs = [0x00, c0, 0, c1, 0, c2, 0, c3, 0, c4, 0, 0, 0, 0, 0, 0, 0]

/-- A byte sequence the block may send (30 R100). -/
abbrev IsDeviceWrite (bs : List Byte) : Prop :=
  bs = [0x21] ∨ bs = [0x80] ∨ bs ∈ [[0x81], [0x83], [0x85], [0x87]] ∨
    (∃ n : Nat, n ≤ 15 ∧ bs = [BitVec.ofNat 8 (0xE0 + n)]) ∨ IsSnapshotWrite bs

/-- Every recorded write went to `DEV_ADDR` and is one the block may send (20 R59, 30 R100). -/
abbrev TraceLegal (s : State) : Prop := ∀ w ∈ s.trace, w.dev = s.cfg.devAddr ∧ IsDeviceWrite w.bytes

/-- What the writes so far, newest first, let anyone say of the device's display memory (10 R36): nothing before the
first accepted snapshot, nothing after a failed write or an accepted display-off byte (log entry 8), else the bytes of
the last accepted snapshot at addresses 0, 1, 2 and on, whether or not the device had been powered on or its display
enabled (log entries 22 and 23). -/
def knownImage : List Transfer → Memory
  | [] => []
  | w :: older =>
    match w.answer, w.bytes with
    | .fail, _ => []
    | .ok, [] => knownImage older
    | .ok, r :: data =>
      if r = 0x00 then (List.range data.length).zip data
      else if r = 0x80 then []
      else knownImage older

/-- The device image is what the trace lets anyone say of it. -/
abbrev ImageKnown (s : State) : Prop := s.device = knownImage s.trace.reverse

/-! ### What a command reports and sends -/

/-- The status a transport write gives the command it belongs to. -/
def ackStatus : Answer → Status
  | .ok => .ok
  | .fail => .transportFailure

/-- Nothing was handed to the transport. -/
abbrev Silent (s t : State) : Prop :=
  t.trace = s.trace ∧ t.device = s.device ∧ t.answers = s.answers ∧ t.free = s.free

/-- What one write leaves at every address of the device image (10 R36): answered `fail`, no byte is known; accepted with
the header 0x00, the data bytes stand from address 0 and every other address reads as before, whatever the device was told
earlier (log entries 22 and 23, DESIGN CHOICE); accepted with 0x80, no byte is known (log entry 8, DESIGN CHOICE);
accepted with another first byte, every address reads as before (log entry 8, DEDUCED). -/
abbrev ImageAfter (bytes : List Byte) (a : Answer) (before after : Memory) : Prop :=
  ∀ k, Memory.read after k =
    if a = .fail then none
    else if bytes.head? = some 0x00 then (if k < bytes.length - 1 then bytes[k + 1]? else Memory.read before k)
    else if bytes.head? = some 0x80 then none
    else Memory.read before k

/-- Exactly one write, of `bytes`, was handed to the transport. -/
abbrev SentOne (bytes : List Byte) (s t : State) : Prop :=
  t.trace = s.trace ++ [⟨s.cfg.devAddr, bytes, s.nextAnswer⟩] ∧
    ImageAfter bytes s.nextAnswer s.device t.device ∧ t.answers = s.answers.tail ∧ t.free = s.free + 1

/-- The command gave exactly one response. -/
abbrev Reported (written : Bool) (e : Status) (s t : State) : Prop := t.responses = s.responses ++ [⟨written, e⟩]

/-- The command pushes the buffer (30 R84, 42 R166): `P` is set, or it is FLUSH, or RENDER; a WR_GLYPH of a digit above
15 and a RENDER with an unsupported base end before their push (60 R248). -/
def pushes : Instr → Bool
  | .wrDigit p _ _ _ => p
  | .wrGlyph p _ _ digit => p && decide (digit ≤ 15)
  | .wrColon p _ => p
  | .setDot p _ _ => p
  | .clear p => p
  | .nop => false
  | .flush => true
  | .render _ base _ => decide (base ∈ [2, 8, 10, 16])
  | .facadeBegin => false
  | .dispOn => false
  | .dispOff => false
  | .setBright _ => false
  | .setBlink _ => false
  | .wrChar p _ => p

/-- The end of a buffer command (41 R130): with `P` clear nothing is sent and the status is `OK`; with `P` set the buffer
as the command left it is pushed, and the status is that of the push. What an accepted push leaves of the device image is
10 R36 as the model reads it (log entries 22 and 23, DESIGN CHOICE). -/
abbrev EndsWithPush (p written : Bool) (s t : State) : Prop :=
  if p then SentOne (pushBytes s.cfg t.buf) s t ∧ Reported written (ackStatus s.nextAnswer) s t
  else Silent s t ∧ Reported written .ok s t

/-- The configuration and what the host presents next are as they were. -/
abbrev SameInputs (s t : State) : Prop := t.cfg = s.cfg ∧ t.host = s.host

/-- Cursor, Facade state, configuration and what the host presents next are as they were. -/
abbrev SameControl (s t : State) : Prop := t.cursor = s.cursor ∧ t.fstate = s.fstate ∧ SameInputs s t

/-! ### The number a RENDER carries and the number a display shows -/

/-- `value = sint(val) / 2^32`, the rational (30 R85). -/
def valueOf (val : ValWord) : ℚ := (val.toInt : ℚ) / 2 ^ 32

/-- The `val` word of an integer. -/
def intWord (v : Int) : ValWord := BitVec.ofInt 64 (v * 2 ^ 32)

/-- The digit whose glyph, without a dot, a cell shows. -/
def cellDigit (t : GlyphTable) (c : CellWord) : Option (Fin 16) :=
  (List.finRange 16).find? (fun d => (glyph t d).setWidth 16 == c)

/-- The digits a row of cells shows (42 R171): leading blanks skipped, each cell left mapped through the inverse of the
Glyph Table, left to right; none where a cell left shows no digit. -/
def digitsShown (t : GlyphTable) (cells : List CellWord) : Option (List Nat) :=
  ((cells.dropWhile (· == 0)).mapM (cellDigit t)).map (fun ds => ds.map (·.val))

/-- The digit cells, left to right (10 R22). -/
def digitCells (b : Buf) : List CellWord := [b.dig0, b.dig1, b.dig2, b.dig3]

/-- The decimal, or base-`b`, digits of `N`, most significant first, at least one. -/
def digitText (b N : Nat) : List Nat := if N = 0 then [0] else (Nat.digits b N).reverse

/-- A supported base (42 R151). -/
abbrev IsBase (b : Nat) : Prop := b = 2 ∨ b = 8 ∨ b = 10 ∨ b = 16

/-- The digit slots of a value (42 R152). -/
def slotsOf (v : ℚ) : Nat := if v < 0 then 3 else 4

/-- The characters of a text that fill a slot (43 R186). -/
def slotChars (text : List TextChar) : List TextChar := text.filter (· != .point)

/-- Whether a point stands in a text after its `k`-th slot-filling character and before the next (43 R188). -/
def pointAfter : List TextChar → Nat → Bool
  | [], _ => false
  | .point :: _, 0 => true
  | .point :: rest, k + 1 => pointAfter rest (k + 1)
  | .digit _ :: _, 0 => false
  | .minus :: _, 0 => false
  | .other :: _, 0 => false
  | .digit _ :: rest, k + 1 => pointAfter rest k
  | .minus :: rest, k + 1 => pointAfter rest k
  | .other :: rest, k + 1 => pointAfter rest k

/-- A field that the opcode marks "0" in 30 R82 is not zero. -/
def unusedFieldSet (w : CmdWord) : Prop :=
  (pField w = true ∧ opField w ∈ [0x7, 0x8, 0x9, 0xA, 0xB, 0xC]) ∨
    (fField w = true ∧ opField w ∈ [0x5, 0x6, 0x7, 0x8, 0x9, 0xA, 0xB, 0xC, 0xD]) ∨
    (aField w ≠ 0 ∧ opField w ∈ [0x3, 0x5, 0x6, 0x8, 0x9, 0xA]) ∨
    (bField w ≠ 0 ∧ opField w ∈ [0x3, 0x4, 0x5, 0x6, 0x8, 0x9, 0xA, 0xB, 0xC, 0xD])

/-! ### Safe runs -/

/-- The block completes what it is at: the step gives a next state (60 R245(d), 70 R282). -/
abbrev Completes (s : State) : Prop := ∃ t, step s = .next t

end Sys2Proof.Machine
end

