-- ==== Sys2Proof/Certificates/Slice0/Obligations.lean ====
section
/-! DEFINITION. The statements for the provers, each a formalisation of rules of spec/ (file number, rule). Statements
about every state hold in every state; where one needs an invariant, the invariant is a statement of its own. -/

open Sys2Proof Sys2Proof.Machine

/-! ### Reset -/

/-- 10 R35, 70 R270: Uninitialized, cells and cursor zero, trace empty, the device image any value. That cells and
cursor are zero is the spec's own decision D9 (log entry 6). -/
def Obligations.ResetLeavesBlankUninitializedState : Prop :=
  State.reset.fstate = .uninitialized ∧ (∀ p, State.reset.buf.get p = 0) ∧ State.reset.cursor = 0 ∧
    State.reset.trace = [] ∧ (∀ a, Memory.read State.reset.device a = none) ∧
    ∀ a, deviceByte State.reset a = Config.deviceByte State.reset.free a

/-- 10 R29 and 40 R122: at reset the device address is 0x70 and the Glyph Table is the spec's default, which meets the
constraints of 40 R121. The table is general knowledge (log entry 5, PRESUMED); the strap is free (log entry 3). -/
def Obligations.ResetConfigurationIsTheDefault : Prop :=
  State.reset.cfg.devAddr = 0x70 ∧
    State.reset.cfg.glyph.toList =
      [0x3F, 0x06, 0x5B, 0x4F, 0x66, 0x6D, 0x7D, 0x07, 0x7F, 0x6F, 0x77, 0x7C, 0x39, 0x5E, 0x79, 0x71] ∧
    GlyphTable.Valid State.reset.cfg.glyph

/-- 00 R7: the parameters whose values the spec fixes, in the configuration of every state. That no configuration holds
other values, and that a width is the width of a type, are the model's (log entry 21, DESIGN CHOICE). -/
def Obligations.ParametersHaveTheSpecValues : Prop :=
  ∀ s : State,
    (s.cfg.params.numDigits = 4 ∧ s.cfg.params.numCells = 5 ∧ s.cfg.params.numSnapCells = 8 ∧
      s.cfg.params.dotBit = 7 ∧ s.cfg.params.colonBit = 0 ∧ s.cfg.params.minus = 0x40 ∧ s.cfg.params.blank = 0x00 ∧
      s.cfg.params.bases.map radix = [2, 8, 10, 16] ∧ s.cfg.params.regDisplay = 0x00 ∧
      s.cfg.params.valueFracBits = 32 ∧ s.cfg.params.cursorMax = 5) ∧
    s.cfg.params.cellWidth = 16 ∧ s.cfg.params.maskWidth = 8 ∧ s.cfg.params.valueWidth = 64 ∧
      s.cfg.params.fracWidth = 8 ∧ s.cfg.params.cmdWidth = 32

/-- 70 R270, 60 R253: a reset from any state. That cells and cursor are zero is the spec's own decision D9 (log entry 6);
that the responses are empty is the model's (log entry 13, DESIGN CHOICE). What goes on outside is the model's too (log
entry 9, DESIGN CHOICE): the configuration, what the host presents next and the answers to come are kept. -/
def Obligations.ResetEventRestartsTheBlock : Prop :=
  ∀ (s : State) (rest : List HostEvent), s.host = .reset :: rest →
    ∃ t, step s = .next t ∧ t.fstate = .uninitialized ∧ (∀ p, t.buf.get p = 0) ∧ t.cursor = 0 ∧ t.trace = [] ∧
      t.responses = [] ∧ (∀ a, Memory.read t.device a = none) ∧ t.cfg = s.cfg ∧ t.host = rest ∧ t.answers = s.answers

/-! ### Invariants -/

/-- The invariants below hold at reset. -/
def Obligations.ResetMeetsTheInvariants : Prop :=
  CellsNarrow State.reset.buf ∧ CursorLegal State.reset.cursor ∧ Memory.wf State.reset.device = true ∧
    TraceLegal State.reset ∧ ImageKnown State.reset

/-- 10 R37: bits 15:8 of every cell are zero at all times. -/
def Obligations.StepKeepsCellHighBytesZero : Prop :=
  ∀ s t : State, CellsNarrow s.buf → step s = .next t → CellsNarrow t.buf

/-- 10 R25: the reachable values of the cursor are 0, 1, 3, 4 and 5. -/
def Obligations.StepKeepsCursorReachable : Prop :=
  ∀ s t : State, CursorLegal s.cursor → step s = .next t → CursorLegal t.cursor

/-- The device image keeps its canonical form, addresses strictly rising. No rule of the spec says so: the form is the
model's own (log entry 7, DESIGN CHOICE), by which equal images of 10 R36 are equal data. -/
def Obligations.StepKeepsDeviceImageCanonical : Prop :=
  ∀ s t : State, Memory.wf s.device = true → step s = .next t → Memory.wf t.device = true

/-- 20 R59, 30 R100, R103: every transport write goes to DEV_ADDR and is one of the listed byte sequences. -/
def Obligations.StepKeepsTransportWritesListed : Prop :=
  ∀ s t : State, CellsNarrow s.buf ∧ TraceLegal s → step s = .next t → CellsNarrow t.buf ∧ TraceLegal t

/-- 10 R34, R36: the device image is at all times what the transport trace lets anyone say of it: the last accepted
snapshot, or any value after a failed write. That a display-off byte makes it any value and that another accepted
command byte leaves it are the model's (log entry 8, DESIGN CHOICE and DEDUCED), and so is that an accepted snapshot is
the image before power-on and while the display is disabled (log entries 22 and 23, DESIGN CHOICE). -/
def Obligations.StepKeepsDeviceImageAsTheTraceTells : Prop :=
  ∀ s t : State, CellsNarrow s.buf ∧ TraceLegal s ∧ ImageKnown s → step s = .next t → ImageKnown t

/-! ### The command port -/

/-- 60 R245(d), R250, 70 R282: no step stops the block. -/
def Obligations.EveryStepCompletes : Prop := ∀ s : State, Completes s

/-- 60 R240: every command, legal or not, gives exactly one response. -/
def Obligations.EveryCommandGivesOneResponse : Prop :=
  ∀ (s : State) (c : Command) (rest : List HostEvent), s.host = .command c :: rest →
    ∃ t r, step s = .next t ∧ t.responses = s.responses ++ [r] ∧ t.host = rest

/-- 30 R93: the four response bits; codes 5 to 7 are never produced. -/
def Obligations.ResponseBitsFollowTheStatusTable : Prop :=
  (∀ w, responseBits ⟨w, .ok⟩ = (if w then 8 else 0) + 0) ∧
    (∀ w, responseBits ⟨w, .illegalCommand⟩ = (if w then 8 else 0) + 1) ∧
    (∀ w, responseBits ⟨w, .unsupportedBase⟩ = (if w then 8 else 0) + 2) ∧
    (∀ w, responseBits ⟨w, .outOfRange⟩ = (if w then 8 else 0) + 3) ∧
    (∀ w, responseBits ⟨w, .transportFailure⟩ = (if w then 8 else 0) + 4) ∧
    ∀ r, (responseBits r).toNat % 8 ≤ 4

/-- 30 R81, R82: decoding an encoded well-formed instruction gives it back, every operand at every value. -/
def Obligations.DecodeOfEncodeIsTheInstruction : Prop := ∀ i : Instr, i.WellFormed → decode (encode i) = .ok i

/-- 30 R89: every word that decodes is the word of the instruction it decodes to, which is well-formed; for RENDER the
value is the one on the `val` lines. -/
def Obligations.EncodeOfDecodeIsTheWord : Prop :=
  ∀ (c : Command) (i : Instr), decode c = .ok i →
    i.WellFormed ∧ encodeWord i = c.cmd ∧ (i.row = .render → encodeVal i = c.val)

/-- 30 R83: the rows' (mask, match) pairs are disjoint, so at most one row matches. -/
def Obligations.AtMostOneRowMatches : Prop :=
  ∀ (w : CmdWord) (r r' : Row), r.selects w = true → r'.selects w = true → r = r'

/-- 30 R82, R89: a word is illegal exactly when its opcode is reserved, a reserved bit is set, or a field its opcode does
not use is not zero. -/
def Obligations.IllegalWordsAreTheReservedOnes : Prop :=
  ∀ c : Command, (∃ e, decode c = .error e) ↔
    opField c.cmd = 0x0 ∨ opField c.cmd = 0xE ∨ opField c.cmd = 0xF ∨ c.cmd.extractLsb' 25 2 ≠ 0 ∨
      c.cmd.extractLsb' 0 8 ≠ 0 ∨ unusedFieldSet c.cmd

/-- 60 R247, the spec's own decision D3: an illegal word changes no state, issues no transport write and is answered
`ILLEGAL_COMMAND`, `written = 0`. -/
def Obligations.IllegalCommandOnlyAnswers : Prop :=
  ∀ (s : State) (c : Command) (rest : List HostEvent) (e : DecodeError),
    s.host = .command c :: rest → decode c = .error e →
    step s = .next { s with host := rest, responses := s.responses ++ [⟨false, .illegalCommand⟩] }

/-- 30 R85, R92: only RENDER, opcode 7, reads `val`. -/
def Obligations.OnlyRenderReadsVal : Prop :=
  ∀ (w : CmdWord) (v v' : ValWord), opField w ≠ 0x7 → decode ⟨w, v⟩ = decode ⟨w, v'⟩

/-- 30 R82: words written out from the encoding, one per opcode, decode to their instructions. -/
def Obligations.SpecWordsDecodeToTheirCommands : Prop :=
  decode ⟨0x11036D00, 0⟩ = .ok (.wrDigit false true 3 0x6D) ∧
    decode ⟨0x2809FF00, 0⟩ = .ok (.wrGlyph true false 9 255) ∧
    decode ⟨0x39000000, 0⟩ = .ok (.wrColon true true) ∧
    decode ⟨0x41010000, 0⟩ = .ok (.setDot false true 1) ∧
    decode ⟨0x58000000, 0⟩ = .ok (.clear true) ∧
    decode ⟨0x60000000, 0⟩ = .ok .nop ∧ decode ⟨0x68000000, 0⟩ = .ok .flush ∧
    decode ⟨0x70010A00, 0xFFFFFFF380000000⟩ = .ok (.render 1 10 0xFFFFFFF380000000) ∧
    decode ⟨0x80000000, 0⟩ = .ok .facadeBegin ∧ decode ⟨0x90000000, 0⟩ = .ok .dispOn ∧
    decode ⟨0xA0000000, 0⟩ = .ok .dispOff ∧ decode ⟨0xB0070000, 0⟩ = .ok (.setBright 7) ∧
    decode ⟨0xC0020000, 0⟩ = .ok (.setBlink 2) ∧ decode ⟨0xD8350000, 0⟩ = .ok (.wrChar true 0x35)

/-- 10 R27, 30 R80: a step with a command presented that decodes to `i` is `exec` of `i`, the command taken off what the
host presents; nothing else happens around it. So for a word placed by `withFetchWord`. -/
def Obligations.StepRunsTheDecodedInstruction : Prop :=
  (∀ (s : State) (c : Command) (rest : List HostEvent) (i : Instr),
    s.host = .command c :: rest → decode c = .ok i → step s = exec i { s with host := rest }) ∧
    ∀ (s : State) (nbits w : Nat) (i : Instr),
      decodeTableWord nbits w = some i → step (s.withFetchWord nbits w) = exec i s

/-- 70 R270: with nothing presented the block waits. A step that waits is the model's (log entry 1, DESIGN CHOICE). -/
def Obligations.NothingPresentedNothingHappens : Prop := ∀ s : State, s.host = [] → step s = .next s

/-! ### The transport and the device -/

/-- 20 R55: sixteen bytes, each of eight cells as two bytes, low byte first, cells 5 to 7 zero; with the high bytes zero
every odd byte is zero. -/
def Obligations.SnapshotIsLittleEndianPadded : Prop :=
  ∀ (cfg : Config) (b : Buf), (snapshot cfg b).length = 16 ∧
    (∀ i < 8,
      (snapshot cfg b)[2 * i]? = some ((if i ≤ 4 then b.get i else 0).extractLsb' 0 8) ∧
      (snapshot cfg b)[2 * i + 1]? = some ((if i ≤ 4 then b.get i else 0).extractLsb' 8 8)) ∧
    (CellsNarrow b → ∀ i < 8, (snapshot cfg b)[2 * i + 1]? = some 0) ∧
    ∀ k, 10 ≤ k → k < 16 → (snapshot cfg b)[k]? = some 0

/-- 41 R136, 20 R56: FLUSH sends header and snapshot in one 17-byte write to DEV_ADDR and changes no cell. What an
accepted snapshot leaves of the device image in every state of the device is log entries 22 and 23 (DESIGN CHOICE), as in
every statement with `EndsWithPush`. -/
def Obligations.FlushPushesTheBuffer : Prop :=
  ∀ s : State, ∃ t, exec .flush s = .next t ∧ t.buf = s.buf ∧ SameControl s t ∧
    t.trace = s.trace ++ [⟨s.cfg.devAddr, 0x00 :: snapshot s.cfg s.buf, s.nextAnswer⟩] ∧
    t.trace.getLast?.map (fun w => w.bytes.length) = some 17 ∧ EndsWithPush true false s t

/-- 10 R36, 20 R62: after any push that answered `ok` (a buffer command or WR_CHAR with `P` set, FLUSH, RENDER) the
device's display memory is the snapshot of the buffer as the command leaves it, byte by byte. That this holds before the
device has had its power-on byte, and while its display is disabled, is the model's reading of 10 R36 (log entries 22 and
23, DESIGN CHOICE). -/
def Obligations.AcceptedSnapshotIsTheDeviceImage : Prop :=
  ∀ (i : Instr) (s : State), pushes i = true → s.nextAnswer = .ok →
    ∃ t w, exec i s = .next t ∧ t.responses = s.responses ++ [⟨w, .ok⟩] ∧
      ∀ a < 16, Memory.read t.device a = (snapshot s.cfg t.buf)[a]? ∧
        some (deviceByte t a) = (snapshot s.cfg t.buf)[a]?

/-- 60 R245, 10 R36: a command that reports `TransportFailure` leaves every byte of the device image any value. The
statement holds for every free value. -/
def Obligations.TransportFailureLeavesImageUnknown : Prop :=
  ∀ (i : Instr) (s t : State) (w : Bool), exec i s = .next t →
    t.responses = s.responses ++ [⟨w, .transportFailure⟩] →
    ∀ a, Memory.read t.device a = none ∧ deviceByte t a = Config.deviceByte t.free a

/-! ### Buffer commands -/

/-- 41 R131: the addressed cell becomes `mask | (dot ? 0x80 : 0)`, high byte zero; a position above 4 names no cell.
What an accepted push leaves of the device image is 10 R36 as the model reads it (log entries 22 and 23, DESIGN
CHOICE). -/
def Obligations.WrDigitReplacesTheCell : Prop :=
  ∀ (p dot : Bool) (pos : Nat) (mask : Mask) (s : State),
    ∃ t, exec (.wrDigit p dot pos mask) s = .next t ∧
      (∀ q ≤ 4, t.buf.get q =
        if q = pos then (mask ||| (if dot then 0x80 else 0x00)).setWidth 16 else s.buf.get q) ∧
      SameControl s t ∧ EndsWithPush p false s t

/-- 40 R123: for a digit in 0..15 the addressed cell becomes its glyph with the dot, for every Glyph Table. What an
accepted push leaves of the device image is 10 R36 as the model reads it (log entries 22 and 23, DESIGN CHOICE). -/
def Obligations.WrGlyphWritesTheTableEntry : Prop :=
  ∀ (p dot : Bool) (pos : Nat) (digit : Fin 16) (s : State),
    ∃ t, exec (.wrGlyph p dot pos digit.val) s = .next t ∧
      (∀ q ≤ 4, t.buf.get q =
        if q = pos then (s.cfg.glyph[digit] ||| (if dot then 0x80 else 0x00)).setWidth 16 else s.buf.get q) ∧
      SameControl s t ∧ EndsWithPush p false s t

/-- 40 R123, 60 R246: a digit above 15 raises `OutOfRange` before any effect, at every position, push or not. -/
def Obligations.WrGlyphAboveFifteenIsOutOfRange : Prop :=
  ∀ (p dot : Bool) (pos digit : Nat) (s : State), 15 < digit →
    exec (.wrGlyph p dot pos digit) s = .next { s with responses := s.responses ++ [⟨false, .outOfRange⟩] }

/-- 41 R133: the whole colon cell becomes 0x0001 or 0x0000; the digit cells stay. What an accepted push leaves of the
device image is 10 R36 as the model reads it (log entries 22 and 23, DESIGN CHOICE). -/
def Obligations.WrColonReplacesTheColonCell : Prop :=
  ∀ (p on : Bool) (s : State),
    ∃ t, exec (.wrColon p on) s = .next t ∧ t.buf.colon = (if on then 0x0001 else 0x0000) ∧
      digitCells t.buf = digitCells s.buf ∧ SameControl s t ∧ EndsWithPush p false s t

/-- 41 R134: at a digit column bit 7 becomes `on` and the other fifteen bits stay; position 4 is WR_COLON; above 4
nothing. Every other cell stays. What an accepted push leaves of the device image is 10 R36 as the model reads it (log
entries 22 and 23, DESIGN CHOICE). -/
def Obligations.SetDotChangesOneBitOrTheColon : Prop :=
  ∀ (p on : Bool) (pos : Nat) (s : State),
    ∃ t, exec (.setDot p on pos) s = .next t ∧
      (pos ≤ 3 → ∀ k < 16, (t.buf.get pos).getLsbD k = if k = 7 then on else (s.buf.get pos).getLsbD k) ∧
      (pos = 4 → t.buf.get 4 = if on then 0x0001 else 0x0000) ∧
      (∀ q ≤ 4, q ≠ pos → t.buf.get q = s.buf.get q) ∧
      SameControl s t ∧ EndsWithPush p false s t

/-- 41 R135: all five cells zero; the cursor and the Facade state stay. What an accepted push leaves of the device
image is 10 R36 as the model reads it (log entries 22 and 23, DESIGN CHOICE). -/
def Obligations.ClearZeroesTheFiveCells : Prop :=
  ∀ (p : Bool) (s : State),
    ∃ t, exec (.clear p) s = .next t ∧ (∀ q ≤ 4, t.buf.get q = 0) ∧ SameControl s t ∧ EndsWithPush p false s t

/-- 41 R136, 30 R90: NOP does nothing but answer. -/
def Obligations.NopOnlyAnswers : Prop :=
  ∀ s : State, exec .nop s = .next { s with responses := s.responses ++ [⟨false, .ok⟩] }

/-- 20 R52: a write whose position is outside 0..4 changes no cell; the status stays that of the push, `OK` without
one; WR_CHAR at cursor 5 still reports a character and its cursor stays at 5: that clause rests on the spec's
decisions D12 (the cursor) and D13 (`written`) and on ASCII codes (log entry 16, PRESUMED). What an accepted push
leaves of the device image is 10 R36 as the model reads it (log entries 22 and 23, DESIGN CHOICE). -/
def Obligations.InvalidPositionIsSilent : Prop :=
  ∀ (p dot on : Bool) (pos : Nat) (mask : Mask) (digit : Fin 16) (c : Fin 10) (s : State), 5 ≤ pos →
    (∃ t, exec (.wrDigit p dot pos mask) s = .next t ∧ t.buf = s.buf ∧ SameControl s t ∧ EndsWithPush p false s t) ∧
    (∃ t, exec (.wrGlyph p dot pos digit.val) s = .next t ∧ t.buf = s.buf ∧ SameControl s t ∧
      EndsWithPush p false s t) ∧
    (∃ t, exec (.setDot p on pos) s = .next t ∧ t.buf = s.buf ∧ SameControl s t ∧ EndsWithPush p false s t) ∧
    (s.cursor = 5 →
      ∃ t, exec (.wrChar p (0x30 + c.val)) s = .next t ∧ t.buf = s.buf ∧ SameControl s t ∧ EndsWithPush p true s t)

/-! ### Facade commands -/

/-- 44 R210: with the three writes accepted, wherever their answers come from, BEGIN sends 21, 81, EF in this order and
becomes Active; buffer and cursor stay. That the device image is as before after three accepted command bytes is the
model's (log entry 8, DEDUCED). -/
def Obligations.BeginPowersUpAndBecomesActive : Prop :=
  ∀ s : State,
    let s₁ := s.memWrite [0x21]
    let s₂ := s₁.memWrite [0x81]
    s.nextAnswer = .ok → s₁.nextAnswer = .ok → s₂.nextAnswer = .ok →
    ∃ t, exec .facadeBegin s = .next t ∧ t.fstate = .active ∧ t.buf = s.buf ∧ t.cursor = s.cursor ∧ SameInputs s t ∧
      t.trace = s.trace ++ [⟨s.cfg.devAddr, [0x21], .ok⟩, ⟨s.cfg.devAddr, [0x81], .ok⟩, ⟨s.cfg.devAddr, [0xEF], .ok⟩] ∧
      t.device = s.device ∧ t.answers = s.answers.drop 3 ∧ t.free = s.free + 3 ∧ Reported false .ok s t

/-- 44 R210, 60 R245 and the spec's decision D15: BEGIN stops at the first write that fails, wherever its answer comes
from; the later writes are not issued and the Facade state stays. -/
def Obligations.BeginStopsAtTheFirstFailure : Prop :=
  ∀ s : State,
    let s₁ := s.memWrite [0x21]
    let s₂ := s₁.memWrite [0x81]
    let stopsAfter : List Transfer → Prop := fun ws =>
      ∃ t, exec .facadeBegin s = .next t ∧ t.buf = s.buf ∧ SameControl s t ∧ t.trace = s.trace ++ ws ∧
        t.answers = s.answers.drop ws.length ∧ t.free = s.free + ws.length ∧ t.device = [] ∧
        Reported false .transportFailure s t
    (s.nextAnswer = .fail → stopsAfter [⟨s.cfg.devAddr, [0x21], .fail⟩]) ∧
    (s.nextAnswer = .ok → s₁.nextAnswer = .fail →
      stopsAfter [⟨s.cfg.devAddr, [0x21], .ok⟩, ⟨s.cfg.devAddr, [0x81], .fail⟩]) ∧
    (s.nextAnswer = .ok → s₁.nextAnswer = .ok → s₂.nextAnswer = .fail →
      stopsAfter [⟨s.cfg.devAddr, [0x21], .ok⟩, ⟨s.cfg.devAddr, [0x81], .ok⟩, ⟨s.cfg.devAddr, [0xEF], .fail⟩])

/-- 44 R211, R212: DISP_ON sends 0x81, DISP_OFF sends 0x80; no state of the block is written. In `SentOne`, that an
accepted 0x81 leaves the device image as it was (DEDUCED) and that after an accepted 0x80 it is any value (DESIGN CHOICE)
are the model's (log entry 8). -/
def Obligations.DisplayOnAndOffSendOneByte : Prop :=
  ∀ s : State,
    (∃ t, exec .dispOn s = .next t ∧ t.buf = s.buf ∧ SameControl s t ∧ SentOne [0x81] s t ∧
      Reported false (ackStatus s.nextAnswer) s t) ∧
    ∃ t, exec .dispOff s = .next t ∧ t.buf = s.buf ∧ SameControl s t ∧ SentOne [0x80] s t ∧
      Reported false (ackStatus s.nextAnswer) s t

/-- 44 R213, 30 R102: SET_BRIGHT sends `0xE0 | level`, levels above 15 as 15; no state of the block is written.
In `SentOne`, that the accepted byte leaves the device image as it was is the model's (log entry 8, DEDUCED). -/
def Obligations.SetBrightSendsTheClampedLevel : Prop :=
  ∀ (level : Nat) (s : State),
    ∃ t, exec (.setBright level) s = .next t ∧ t.buf = s.buf ∧ SameControl s t ∧
      SentOne [BitVec.ofNat 8 (0xE0 + if level ≤ 15 then level else 15)] s t ∧
      Reported false (ackStatus s.nextAnswer) s t

/-- 44 R214, 30 R101: SET_BLINK sends 0x81, 0x83, 0x85, 0x87 for rates 0 to 3 and 0x81 above; no state of the block is
written. In `SentOne`, that the accepted byte leaves the device image as it was is the model's (log entry 8, DEDUCED). -/
def Obligations.SetBlinkSendsTheCoercedRate : Prop :=
  ∀ (rate : Nat) (s : State),
    ∃ t, exec (.setBlink rate) s = .next t ∧ t.buf = s.buf ∧ SameControl s t ∧
      SentOne [if rate = 1 then 0x83 else if rate = 2 then 0x85 else if rate = 3 then 0x87 else 0x81] s t ∧
      Reported false (ackStatus s.nextAnswer) s t

/-- 44 R225, R226: a digit character is written at the cursor, without a dot, for every Glyph Table; the cursor walks
0, 1, 3, 4, 5 and stays at 5; cell 2 is not written from a reachable cursor. Character codes are ASCII (30 R105,
general knowledge); the walk after 3 is the spec's decision D12 and `written` 1 its decision D13 (log entry 16). What
an accepted push leaves of the device image is 10 R36 as the model reads it (log entries 22 and 23, DESIGN CHOICE). -/
def Obligations.WrCharDigitIsWrittenAtTheCursor : Prop :=
  ∀ (p : Bool) (d : Fin 10) (s : State),
    ∃ t, exec (.wrChar p (0x30 + d.val)) s = .next t ∧
      (∀ q ≤ 4, t.buf.get q =
        if q = s.cursor.toNat then (s.cfg.glyph[d.val]'(by omega)).setWidth 16 else s.buf.get q) ∧
      t.cursor = (if s.cursor = 0 then 1 else if s.cursor = 1 then 3 else if s.cursor = 2 then 3
        else if s.cursor = 3 then 4 else 5) ∧
      t.fstate = s.fstate ∧ SameInputs s t ∧ EndsWithPush p true s t

/-- 44 R227, R228, R229: newline and carriage return zero the cursor and report 1; any other character that is no
digit changes nothing and reports 0; neither writes a cell, and a push asked for happens. Character codes are ASCII
(30 R105, log entry 16, PRESUMED); that newline and return report 1 is the spec's decision D13. What an accepted push
leaves of the device image is 10 R36 as the model reads it (log entries 22 and 23, DESIGN CHOICE). -/
def Obligations.WrCharNewlineAndOtherCharacters : Prop :=
  ∀ (p : Bool) (s : State),
    (∀ code : Nat, code = 0x0A ∨ code = 0x0D →
      ∃ t, exec (.wrChar p code) s = .next t ∧ t.buf = s.buf ∧ t.cursor = 0 ∧ t.fstate = s.fstate ∧ SameInputs s t ∧
        EndsWithPush p true s t) ∧
    ∀ code : Nat, code ≠ 0x0A → code ≠ 0x0D → (code < 0x30 ∨ 0x39 < code) →
      ∃ t, exec (.wrChar p code) s = .next t ∧ t.buf = s.buf ∧ SameControl s t ∧ EndsWithPush p false s t

/-! ### RENDER -/

/-- 42 R151, 60 R243: a base other than 2, 8, 10, 16 is rejected before anything else, under either variant. -/
def Obligations.RenderRejectsUnsupportedBase : Prop :=
  ∀ (frac base : Nat) (val : ValWord) (s : State), ¬ IsBase base →
    exec (.render frac base val) s = .next { s with responses := s.responses ++ [⟨false, .unsupportedBase⟩] }

/-- 42 R166, R167: with a supported base RENDER completes, leaves the colon cell, the cursor and the Facade state, and
pushes exactly once, under either variant and whatever the value. What an accepted push leaves of the device image is
10 R36 as the model reads it (log entries 22 and 23, DESIGN CHOICE). -/
def Obligations.RenderRepaintsDigitsAndPushesOnce : Prop :=
  ∀ (frac base : Nat) (val : ValWord) (s : State), IsBase base →
    ∃ t, exec (.render frac base val) s = .next t ∧ t.buf.colon = s.buf.colon ∧ SameControl s t ∧
      EndsWithPush true false s t ∧ ∀ q ≤ 3, highByteZero (t.buf.get q)

/-- 42 R150, R170(i): RENDER reads no cell, no cursor and no Facade state: from two states of one configuration it
paints the same digit cells. -/
def Obligations.RenderReadsNoState : Prop :=
  ∀ (frac base : Nat) (val : ValWord) (s s' : State), IsBase base → s.cfg = s'.cfg →
    ∃ t t', exec (.render frac base val) s = .next t ∧ exec (.render frac base val) s' = .next t' ∧
      digitCells t.buf = digitCells t'.buf

/-- 42 R172: render twice with identical arguments, an identical buffer snapshot both times. -/
def Obligations.RenderTwiceGivesTheSameSnapshot : Prop :=
  ∀ (frac base : Nat) (val : ValWord) (s : State),
    ∃ t t', exec (.render frac base val) s = .next t ∧ exec (.render frac base val) t = .next t' ∧
      snapshot t'.cfg t'.buf = snapshot t.cfg t.buf ∧ t'.buf = t.buf

/-- 42 R156, R160, 60 R244: under Variant A a value that does not fit with no fractional digit paints dash, dash,
blank, dash, leaves the colon cell, pushes, and reports no error of its own. What an accepted push leaves of the
device image is 10 R36 as the model reads it (log entries 22 and 23, DESIGN CHOICE). -/
def Obligations.FixedPointOverflowPaintsTheErrorPattern : Prop :=
  ∀ (frac base : Nat) (val : ValWord) (s : State), IsBase base → s.cfg.variant = .a →
    (base : ℚ) ^ slotsOf (valueOf val) ≤ |valueOf val| + 1 / 2 →
    ∃ t, exec (.render frac base val) s = .next t ∧ t.buf.dig0 = 0x0040 ∧ t.buf.dig1 = 0x0040 ∧ t.buf.dig2 = 0x0000 ∧
      t.buf.dig3 = 0x0040 ∧ t.buf.colon = s.buf.colon ∧ SameControl s t ∧ EndsWithPush true false s t

/-- 42 R153 to R165 and R168, in the closed form of R158: under Variant A a value that fits is shown with the greatest
number `f` of fractional digits that fits, rounded once, halves away from zero; digit `i` from the right in cell `3 - i`,
the dot on digit `f`, the minus sign left of the digits, blanks beyond; what falls left of cell 0 is dropped. -/
def Obligations.FixedPointCellsAreTheClosedForm : Prop :=
  ∀ (frac base : Nat) (val : ValWord) (s : State), IsBase base → s.cfg.variant = .a →
    |valueOf val| + 1 / 2 < (base : ℚ) ^ slotsOf (valueOf val) →
    ∃ (f N k n : Nat) (t : State),
      IsGreatest {j : Nat | j ≤ frac ∧ |valueOf val| * (base : ℚ) ^ j + 1 / 2 < (base : ℚ) ^ slotsOf (valueOf val)} f ∧
      (N : ℤ) = ⌊|valueOf val| * (base : ℚ) ^ f + 1 / 2⌋ ∧
      IsLeast {j : Nat | N < base ^ j} k ∧ n = max k (f + 1) ∧
      exec (.render frac base val) s = .next t ∧
      ∀ i ≤ 3, t.buf.get (3 - i) =
        if i < n then
          (glyph s.cfg.glyph (Fin.ofNat 16 (N / base ^ i % base)) ||| (if 0 < f ∧ i = f then 0x80 else 0x00)).setWidth 16
        else if i = n ∧ valueOf val < 0 then 0x0040
        else 0x0000

/-- 70 R277, 42 R170(f): under Variant A, from magnitude 1 up, whatever is shown fits: with the reduced `f` the `n` digits
that are emitted (the ones digit and the dot's digit among them) and the sign need at most four slots, and RENDER paints
every one of them: nothing is dropped at the left edge. -/
def Obligations.FixedPointDropsNothingFromOneUp : Prop :=
  ∀ (frac : Nat) (b : Base) (val : ValWord) (s : State) (f : Nat), s.cfg.variant = .a → 1 ≤ |valueOf val| →
    reduceFrac s.cfg (valueMag val) (radix b) (radix b ^ slots s.cfg (valueNeg val)) frac = some f →
    let N := scaledFloor s.cfg (valueMag val) (radix b) f
    let n := numEmitted N (radix b) f
    f + 1 ≤ n ∧ n + (if valueNeg val then 1 else 0) ≤ 4 ∧
      ∃ t, exec (.render frac (radix b) val) s = .next t ∧
        (∀ i < n, t.buf.get (3 - i) =
          (glyph s.cfg.glyph (digitValue N (radix b) i) ||| (if 0 < f ∧ i = f then 0x80 else 0x00)).setWidth 16) ∧
        (valueNeg val = true → t.buf.get (3 - n) = 0x0040)

/-- 43 R181, R182, R183: the text of Variant B. Base 10: the magnitude rounded to `frac` places, halves away from zero, at
least one digit before the point, exactly `frac` after it, no point for `frac = 0`. Other bases: the digits of the
integer part. A minus sign first exactly when the value is negative. Rounding, leading zero, truncation, lower case and
the sign rule are the spec's own decision D16. -/
def Obligations.StringVariantFormatsTheNumber : Prop :=
  ∀ (cfg : Config) (frac : Nat) (b : Base) (val : ValWord),
    let sign : List TextChar := if valueOf val < 0 then [.minus] else []
    let chars : List Nat → List TextChar := fun ds => ds.map (fun d => .digit (Fin.ofNat 16 d))
    let places := (Nat.digits 10 ⌊|valueOf val| * 10 ^ frac + 1 / 2⌋₊).reverse
    let digits := chars (List.replicate (frac + 1 - places.length) 0 ++ places)
    let body :=
      if radix b = 10 then
        if frac = 0 then digits
        else digits.take (digits.length - frac) ++ .point :: digits.drop (digits.length - frac)
      else chars (digitText (radix b) ⌊|valueOf val|⌋₊)
    formatB cfg (valueNeg val) (valueMag val) frac (radix b) = sign ++ body

/-- 43 R184, 70 R282: the text of Variant B holds no other character; a minus sign can only be first; a point occurs at
most once, never first, never last, and only in base 10; the text has at most 1 + 10 + 1 + 255 characters in base 10 with
an 8-bit `frac`, and at most 1 + 32 in base 2. -/
def Obligations.StringVariantTextIsWellShaped : Prop :=
  ∀ (cfg : Config) (frac : Nat) (b : Base) (val : ValWord), frac ≤ 255 →
    let text := formatB cfg (valueNeg val) (valueMag val) frac (radix b)
    TextChar.other ∉ text ∧ TextChar.minus ∉ text.drop 1 ∧ text.count .point ≤ 1 ∧
      (TextChar.point ∈ text → b = .dec ∧ text.head? ≠ some .point ∧ text.getLast? ≠ some .point) ∧
      (b = .dec → text.length ≤ 267) ∧ (b = .bin → text.length ≤ 33)

/-- 43 R185 to R188: the scan of any text. With fewer than four digits and signs the first slots are blank, so that a
short text is right-aligned; then come the slot-filling characters in order, as many as fit, the rest dropped: a digit by
the Glyph Table, the sign as 0x40, any other character blank; a slot carries the dot when a point follows it and it is
the first or second one filled. The count reading of the gate is the spec's decision D17, a point before any slot and the
"other" characters are its D18, and the kinds of characters are the model's (log entry 12, DESIGN CHOICE). -/
def Obligations.StringVariantScanFillsFourSlots : Prop :=
  ∀ (cfg : Config) (text : List TextChar) (j : Nat), j < 4 →
    let pad := 4 - (text.filter (fun c => c != .point && c != .other)).length
    (scanB cfg text)[j]? = some
      (if j < pad then 0x00
      else match (slotChars text)[j - pad]? with
        | none => 0x00
        | some c =>
          (match c with
            | .digit d => cfg.glyph[d]
            | .minus => 0x40
            | .point => 0x00
            | .other => 0x00) |||
          (if j - pad ≤ 1 ∧ pointAfter text (j - pad + 1) = true then 0x80 else 0x00))

/-- 43 R190, R192: under Variant B the four digit cells are the scan of the text, each zero-extended; the colon cell
stays; one push. What an accepted push leaves of the device image is 10 R36 as the model reads it (log entries 22 and
23, DESIGN CHOICE). -/
def Obligations.StringVariantPaintsTheScan : Prop :=
  ∀ (frac : Nat) (b : Base) (val : ValWord) (s : State), s.cfg.variant = .b →
    ∃ t, exec (.render frac (radix b) val) s = .next t ∧
      (∀ q ≤ 3, some (t.buf.get q) =
        ((scanB s.cfg (formatB s.cfg (valueNeg val) (valueMag val) frac (radix b)))[q]?).map (·.setWidth 16)) ∧
      t.buf.colon = s.buf.colon ∧ SameControl s t ∧ EndsWithPush true false s t

/-- 42 R171: for every Glyph Table with distinct, non-blank entries and under either variant, a non-negative integer that
fits four digits reads back digit by digit: leading blanks skipped, the cells show its base-`b` digits, most significant
first, no zero in front, a single 0 for 0. -/
def Obligations.RenderedIntegersReadBack : Prop :=
  ∀ (b : Base) (v : Nat) (s : State),
    (∀ d e : Fin 16, s.cfg.glyph[d] = s.cfg.glyph[e] → d = e) → (∀ d : Fin 16, s.cfg.glyph[d] ≠ 0x00) →
    v < radix b ^ 4 →
    ∃ t, exec (.render 0 (radix b) (intWord v)) s = .next t ∧
      digitsShown s.cfg.glyph (digitCells t.buf) = some (digitText (radix b) v)

/-- 95_test_vectors.md, "Agreement between the variants": integers that fit with their sign are painted alike. -/
def Obligations.VariantsAgreeOnIntegersThatFit : Prop :=
  ∀ (b : Base) (v : Int) (s : State),
    (0 ≤ v ∧ v < (radix b : Int) ^ 4) ∨ (-((radix b : Int) ^ 3) < v ∧ v < 0) →
    ∃ t u, exec (.render 0 (radix b) (intWord v)) { s with cfg := { s.cfg with variant := .a } } = .next t ∧
      exec (.render 0 (radix b) (intWord v)) { s with cfg := { s.cfg with variant := .b } } = .next u ∧ t.buf = u.buf

/-! ### The whole machine -/

/-- 10 R25, R26, R29, 44 R230: no command but WR_CHAR writes the cursor, none but BEGIN writes the Facade state, and
BEGIN leaves it or makes it Active; none writes the configuration or what the host presents next. -/
def Obligations.ControlStateHasOneWriterEach : Prop :=
  ∀ (i : Instr) (s t : State), exec i s = .next t →
    (i.row ≠ .wrChar → t.cursor = s.cursor) ∧ (i.row ≠ .facadeBegin → t.fstate = s.fstate) ∧
      (t.fstate = s.fstate ∨ t.fstate = .active) ∧ t.cfg = s.cfg ∧ t.host = s.host

/-- 60 R253: Active is never left except by reset. -/
def Obligations.ActiveIsLeftByResetOnly : Prop :=
  ∀ s t : State, s.fstate = .active → step s = .next t → t.fstate = .active ∨ ∃ rest, s.host = .reset :: rest

/-- 44 R216, the spec's own decision D10: the Facade state gates nothing: a command does the same in either state. Every
field but `fstate` comes out the same, and `fstate` is left alone from both states or, by BEGIN, made Active from both. -/
def Obligations.FacadeStateGatesNothing : Prop :=
  ∀ (i : Instr) (s : State) (f : FState),
    ∃ t u, exec i s = .next t ∧ exec i { s with fstate := f } = .next u ∧ { u with fstate := t.fstate } = t ∧
      ((t.fstate = s.fstate ∧ u.fstate = f) ∨ (i = .facadeBegin ∧ t.fstate = .active ∧ u.fstate = .active))

/-- 20 R59, 30 R100, 44 R210: a command only appends to the transport trace, every write to DEV_ADDR, at most three
writes (those of BEGIN), and each takes one answer. -/
def Obligations.CommandsOnlyAppendToTheTrace : Prop :=
  ∀ (i : Instr) (s t : State), exec i s = .next t →
    ∃ ws : List Transfer, t.trace = s.trace ++ ws ∧ (∀ w ∈ ws, w.dev = s.cfg.devAddr) ∧ ws.length ≤ 3 ∧
      t.answers = s.answers.drop ws.length ∧ t.free = s.free + ws.length

/-- 30 R84, 60 R242: a command with `P = 0` that is no RENDER, FLUSH or device command issues no transport write. -/
def Obligations.WithoutPushNothingIsSent : Prop :=
  ∀ (dot on : Bool) (pos digit code : Nat) (mask : Mask) (s : State),
    ∀ i ∈ [Instr.wrDigit false dot pos mask, .wrGlyph false dot pos digit, .wrColon false on, .setDot false on pos,
      .clear false, .nop, .wrChar false code], ∃ t, exec i s = .next t ∧ Silent s t

/-- 30 R95: what the assembler accepts fits the command word. -/
def Obligations.AssembledInstructionsAreWellFormed : Prop :=
  ∀ (line : List Char) (i : Instr), assembleChars line = .ok i → i.WellFormed
end

