-- ==== Sys2Proof/Laws/Decode.lean ====
section
/-! SUPPORT. The bits of a packed command word (spec/30_encoding.md R81) and the fields read back from it. -/

namespace Sys2Proof

theorem getLsbD_packWord (op : BitVec 4) (p f : Bool) (a b : BitVec 8) (i : Nat) :
    (packWord op p f a b).getLsbD i =
      if i < 8 then false else if i < 16 then b.getLsbD (i - 8) else if i < 24 then a.getLsbD (i - 16)
      else if i = 24 then f else if i < 27 then false else if i = 27 then p else op.getLsbD (i - 28) := by
  unfold packWord
  rw [BitVec.getLsbD_setWidth]
  simp only [BitVec.getLsbD_append, BitVec.getLsbD_ofBool]
  by_cases h : i < 32
  · simp only [h]
    interval_cases i <;> simp
  · simp [h, show ¬ i < 8 by omega, show ¬ i < 16 by omega, show ¬ i < 24 by omega, show ¬ i = 24 by omega,
      show ¬ i < 27 by omega, show ¬ i = 27 by omega]
    rw [BitVec.getLsbD_of_ge]
    omega

@[simp] theorem opField_packWord (op : BitVec 4) (p f : Bool) (a b : BitVec 8) :
    opField (packWord op p f a b) = op := by
  apply BitVec.eq_of_getLsbD_eq
  intro i hi
  simp only [opField, BitVec.getLsbD_extractLsb', getLsbD_packWord]
  simp [hi, show ¬ 28 + i < 8 by omega, show ¬ 28 + i < 16 by omega, show ¬ 28 + i < 24 by omega,
    show ¬ 28 + i = 24 by omega, show ¬ 28 + i < 27 by omega, show ¬ 28 + i = 27 by omega]

@[simp] theorem aField_packWord (op : BitVec 4) (p f : Bool) (a b : BitVec 8) :
    aField (packWord op p f a b) = a := by
  apply BitVec.eq_of_getLsbD_eq
  intro i hi
  simp only [aField, BitVec.getLsbD_extractLsb', getLsbD_packWord]
  simp [hi, show ¬ 16 + i < 8 by omega, show ¬ 16 + i < 16 by omega, show 16 + i < 24 by omega]

@[simp] theorem bField_packWord (op : BitVec 4) (p f : Bool) (a b : BitVec 8) :
    bField (packWord op p f a b) = b := by
  apply BitVec.eq_of_getLsbD_eq
  intro i hi
  simp only [bField, BitVec.getLsbD_extractLsb', getLsbD_packWord]
  simp [hi, show ¬ 8 + i < 8 by omega, show 8 + i < 16 by omega]

@[simp] theorem pField_packWord (op : BitVec 4) (p f : Bool) (a b : BitVec 8) :
    pField (packWord op p f a b) = p := by
  simp only [pField, getLsbD_packWord]
  simp

@[simp] theorem fField_packWord (op : BitVec 4) (p f : Bool) (a b : BitVec 8) :
    fField (packWord op p f a b) = f := by
  simp only [fField, getLsbD_packWord]
  simp

/-- A packed word selects a row whose match it agrees with bit by bit on the row's mask. -/
theorem selects_packWord (r : Row) (op : BitVec 4) (p f : Bool) (a b : BitVec 8)
    (h : ∀ i < 32, ((packWord op p f a b).getLsbD i && r.mask.getLsbD i) = r.pattern.getLsbD i) :
    r.selects (packWord op p f a b) = true := by
  rw [Row.selects, beq_iff_eq]
  apply BitVec.eq_of_getLsbD_eq
  intro i hi
  rw [BitVec.getLsbD_and]
  exact h i hi

theorem toNat_field8 {n : Nat} (h : fitsField n = true) : (field8 n).toNat = n := by
  simp only [fitsField, decide_eq_true_eq] at h
  simp [field8, Nat.mod_eq_of_lt h]

end Sys2Proof
end

