-- ==== Sys2Proof/Laws/Memory.lean ====
section
/-! SUPPORT. The device's display memory: what a read gives after a write, and that every operation keeps the canonical
form (spec/10_state.md R36). -/

namespace Sys2Proof.Machine

theorem Memory.read_write (m : Memory) (a a' : Nat) (v : Byte) :
    Memory.read (Memory.write m a v) a' = if a = a' then some v else Memory.read m a' := by
  induction m with
  | nil => simp [Memory.write, Memory.read]
  | cons e m ih =>
    obtain ⟨k, w⟩ := e
    simp only [Memory.write]
    split
    · simp [Memory.read]
    · split
      · subst_vars; simp only [Memory.read]; split <;> rfl
      · simp only [Memory.read, ih]
        split <;> split <;> simp_all

/-- Every address a write leaves listed is the one written or was listed before. -/
theorem Memory.mem_write {m : Memory} {a : Nat} {v : Byte} {e : Host.Cell} (h : e ∈ Memory.write m a v) :
    e = (a, v) ∨ e ∈ m := by
  induction m with
  | nil => simpa [Memory.write] using h
  | cons e' m ih =>
    simp only [Memory.write] at h
    split at h
    · simpa using h
    · split at h
      · simp at h ⊢; tauto
      · simp at h ⊢; rcases h with h | h
        · exact .inr (.inl h)
        · rcases ih h with h | h
          · exact .inl h
          · exact .inr (.inr h)

@[simp] theorem Memory.wf_nil : Memory.wf [] = true := rfl

theorem Memory.wf_write {m : Memory} (h : Memory.wf m = true) (a : Nat) (v : Byte) :
    Memory.wf (Memory.write m a v) = true := by
  simp only [Memory.wf, decide_eq_true_eq] at h ⊢
  induction m with
  | nil => simp [Memory.write]
  | cons e m ih =>
    obtain ⟨k, w⟩ := e
    obtain ⟨hk, hm⟩ := List.pairwise_cons.1 h
    simp only [Memory.write]
    split
    · rename_i hlt
      exact List.pairwise_cons.2 ⟨fun x hx => by
        rcases List.mem_cons.1 hx with rfl | hx
        · exact hlt
        · exact lt_trans hlt (hk x hx), h⟩
    · split
      · subst_vars; exact List.pairwise_cons.2 ⟨hk, hm⟩
      · refine List.pairwise_cons.2 ⟨fun x hx => ?_, ih hm⟩
        rcases Memory.mem_write hx with rfl | hx
        · simp; omega
        · exact hk x hx

theorem Memory.wf_writeBytes {m : Memory} (h : Memory.wf m = true) (a : Nat) (vs : List Byte) :
    Memory.wf (Memory.writeBytes m a vs) = true := by
  induction vs generalizing m a with
  | nil => exact h
  | cons v vs ih => exact ih (Memory.wf_write h a v) (a + 1)

theorem wf_deviceAfter {m : Memory} (h : Memory.wf m = true) (cfg : Config) (bytes : List Byte) (a : Answer) :
    Memory.wf (deviceAfter cfg bytes a m) = true := by
  unfold deviceAfter
  split
  · rfl
  · split
    · exact h
    · split
      · exact Memory.wf_writeBytes h 0 _
      · split <;> simp [h]

theorem reset_device_wf : Memory.wf State.reset.device = true := rfl

/-- What an accepted run of bytes leaves at each address. -/
theorem Memory.read_writeBytes (m : Memory) (base a : Nat) (vs : List Byte) :
    Memory.read (Memory.writeBytes m base vs) a =
      if base ≤ a ∧ a < base + vs.length then vs[a - base]? else Memory.read m a := by
  induction vs generalizing m base with
  | nil => simp [Memory.writeBytes]
  | cons v vs ih =>
    simp only [Memory.writeBytes, ih, Memory.read_write, List.length_cons]
    by_cases h1 : base = a
    · subst h1; simp
    · by_cases h2 : base + 1 ≤ a ∧ a < base + 1 + vs.length
      · have : a - base = (a - (base + 1)) + 1 := by omega
        rw [if_pos h2, if_pos (by omega), this]; simp
      · rw [if_neg h2, if_neg h1, if_neg (by omega)]

end Sys2Proof.Machine
end

