-- ==== Sys2Proof/Laws/Params.lean ====
section
/-! SUPPORT. Every configuration has the parameter values of spec/00_scope.md R7: the operations that read a parameter,
with its value put in. -/

namespace Sys2Proof

/-- The parameters of any configuration are the spec's. -/
@[simp] theorem Config.params_eq (c : Config) : c.params = Machine.Params.spec := c.fixed

/-- `FRAC_W` is 8, so a count of fractional digits fits its field as any operand does. -/
theorem fitsFrac_eq (n : Nat) : fitsFrac n = fitsField n := rfl

namespace Machine

variable (c : Config)

@[simp] theorem Params.spec_numDigits : Params.spec.numDigits = 4 := rfl
@[simp] theorem Params.spec_numCells : Params.spec.numCells = 5 := rfl
@[simp] theorem Params.spec_numSnapCells : Params.spec.numSnapCells = 8 := rfl
@[simp] theorem Params.spec_minus : Params.spec.minus = 0x40 := rfl
@[simp] theorem Params.spec_blank : Params.spec.blank = 0x00 := rfl
@[simp] theorem Params.spec_regDisplay : Params.spec.regDisplay = 0x00 := rfl
@[simp] theorem Params.spec_valueFracBits : Params.spec.valueFracBits = 32 := rfl
@[simp] theorem Params.spec_cursorMax : Params.spec.cursorMax = 5 := rfl

/-- `CELL_W`, `MASK_W`, `VALUE_W` and `CMD_W` of any configuration are the widths of the word types (00 R7). -/
theorem widths_are_the_types :
    CellWord = BitVec c.params.cellWidth ∧ Mask = BitVec c.params.maskWidth ∧
      ValWord = BitVec c.params.valueWidth ∧ CmdWord = BitVec c.params.cmdWidth := by
  rw [Config.params_eq]
  exact ⟨rfl, rfl, rfl, rfl⟩

@[simp] theorem dotMask_eq : dotMask c = 0x80 := by rw [dotMask, Config.params_eq]; rfl

theorem dotBits_eq (dot : Bool) : dotBits c dot = if dot then 0x80 else 0x00 := by rw [dotBits, dotMask_eq]

theorem cellOf_eq (mask : Mask) (dot : Bool) :
    cellOf c mask dot = (mask ||| if dot then 0x80 else 0x00).setWidth 16 := by rw [cellOf, dotBits_eq]

@[simp] theorem cellOf_false (mask : Mask) : cellOf c mask false = mask.setWidth 16 := by simp [cellOf_eq]

theorem colonCell_eq (on : Bool) : colonCell c on = if on then 0x0001 else 0x0000 := by
  rw [colonCell, Config.params_eq]
  rfl

theorem dotCell_eq (on : Bool) (v : CellWord) :
    dotCell c on v = if on then v ||| 0x0080 else v &&& ~~~0x0080 := by
  rw [dotCell, dotMask_eq]
  rfl

/-- A number names a base exactly when it is 2, 8, 10 or 16. -/
theorem baseOf_eq (n : Nat) :
    baseOf c n =
      if n = 2 then some .bin else if n = 8 then some .oct else if n = 10 then some .dec
      else if n = 16 then some .hex else none := by
  simp only [baseOf, Config.params_eq, Params.spec, List.find?_cons, List.find?_nil, radix]
  by_cases h2 : n = 2
  · subst h2; rfl
  by_cases h8 : n = 8
  · subst h8; rfl
  by_cases h10 : n = 10
  · subst h10; rfl
  by_cases h16 : n = 16
  · subst h16; rfl
  have e (k : Nat) (h : ¬ n = k) : (k == n) = false := beq_false_of_ne (fun h' => h h'.symm)
  simp [h2, h8, h10, h16, e 2 h2, e 8 h8, e 10 h10, e 16 h16]

theorem Buf.errorPattern_eq (b : Buf) :
    b.errorPattern c = { b with dig0 := 0x0040, dig1 := 0x0040, dig2 := 0x0000, dig3 := 0x0040 } := by
  simp [Buf.errorPattern]

theorem advanceCursor_eq (k : BitVec 3) :
    advanceCursor c k =
      if k = 0 then 1 else if k = 1 then 3 else if k = 2 then 3 else if k = 3 then 4 else 5 := by
  simp only [advanceCursor, Config.params_eq, Params.spec_cursorMax]
  revert k
  decide

theorem slots_eq (neg : Bool) : slots c neg = if neg then 3 else 4 := by rw [slots, Config.params_eq]; rfl

theorem slotPos_eq (i : Nat) : slotPos c i = 3 - (i : Int) := by
  rw [slotPos, Config.params_eq, Params.spec_numDigits]
  rfl

theorem scaledFloor_eq (m b f : Nat) : scaledFloor c m b f = (2 * (m * b ^ f) + 2 ^ 32) / 2 ^ 33 := by
  rw [scaledFloor, Config.params_eq, Params.spec_valueFracBits]

theorem padOf_eq (text : List TextChar) : padOf c text = 4 - text.countP isMeaningful := by
  rw [padOf, Config.params_eq, Params.spec_numDigits]

end Machine

end Sys2Proof
end

