-- ==== Sys2Proof/Laws/State.lean ====
section
/-! SUPPORT. One lemma per field per update of State, each true by `rfl`, so that no later proof unfolds an update. -/

namespace Sys2Proof.Machine

@[simp] theorem State.setBuf_buf (s : State) (b : Buf) :
    (s.setBuf b).buf = b := rfl
@[simp] theorem State.setBuf_cursor (s : State) (b : Buf) :
    (s.setBuf b).cursor = s.cursor := rfl
@[simp] theorem State.setBuf_fstate (s : State) (b : Buf) :
    (s.setBuf b).fstate = s.fstate := rfl
@[simp] theorem State.setBuf_cfg (s : State) (b : Buf) :
    (s.setBuf b).cfg = s.cfg := rfl
@[simp] theorem State.setBuf_responses (s : State) (b : Buf) :
    (s.setBuf b).responses = s.responses := rfl
@[simp] theorem State.setBuf_trace (s : State) (b : Buf) :
    (s.setBuf b).trace = s.trace := rfl
@[simp] theorem State.setBuf_device (s : State) (b : Buf) :
    (s.setBuf b).device = s.device := rfl
@[simp] theorem State.setBuf_host (s : State) (b : Buf) :
    (s.setBuf b).host = s.host := rfl
@[simp] theorem State.setBuf_answers (s : State) (b : Buf) :
    (s.setBuf b).answers = s.answers := rfl
@[simp] theorem State.setBuf_free (s : State) (b : Buf) :
    (s.setBuf b).free = s.free := rfl

@[simp] theorem State.setCursor_buf (s : State) (k : BitVec 3) :
    (s.setCursor k).buf = s.buf := rfl
@[simp] theorem State.setCursor_cursor (s : State) (k : BitVec 3) :
    (s.setCursor k).cursor = k := rfl
@[simp] theorem State.setCursor_fstate (s : State) (k : BitVec 3) :
    (s.setCursor k).fstate = s.fstate := rfl
@[simp] theorem State.setCursor_cfg (s : State) (k : BitVec 3) :
    (s.setCursor k).cfg = s.cfg := rfl
@[simp] theorem State.setCursor_responses (s : State) (k : BitVec 3) :
    (s.setCursor k).responses = s.responses := rfl
@[simp] theorem State.setCursor_trace (s : State) (k : BitVec 3) :
    (s.setCursor k).trace = s.trace := rfl
@[simp] theorem State.setCursor_device (s : State) (k : BitVec 3) :
    (s.setCursor k).device = s.device := rfl
@[simp] theorem State.setCursor_host (s : State) (k : BitVec 3) :
    (s.setCursor k).host = s.host := rfl
@[simp] theorem State.setCursor_answers (s : State) (k : BitVec 3) :
    (s.setCursor k).answers = s.answers := rfl
@[simp] theorem State.setCursor_free (s : State) (k : BitVec 3) :
    (s.setCursor k).free = s.free := rfl

@[simp] theorem State.setFstate_buf (s : State) (f : FState) :
    (s.setFstate f).buf = s.buf := rfl
@[simp] theorem State.setFstate_cursor (s : State) (f : FState) :
    (s.setFstate f).cursor = s.cursor := rfl
@[simp] theorem State.setFstate_fstate (s : State) (f : FState) :
    (s.setFstate f).fstate = f := rfl
@[simp] theorem State.setFstate_cfg (s : State) (f : FState) :
    (s.setFstate f).cfg = s.cfg := rfl
@[simp] theorem State.setFstate_responses (s : State) (f : FState) :
    (s.setFstate f).responses = s.responses := rfl
@[simp] theorem State.setFstate_trace (s : State) (f : FState) :
    (s.setFstate f).trace = s.trace := rfl
@[simp] theorem State.setFstate_device (s : State) (f : FState) :
    (s.setFstate f).device = s.device := rfl
@[simp] theorem State.setFstate_host (s : State) (f : FState) :
    (s.setFstate f).host = s.host := rfl
@[simp] theorem State.setFstate_answers (s : State) (f : FState) :
    (s.setFstate f).answers = s.answers := rfl
@[simp] theorem State.setFstate_free (s : State) (f : FState) :
    (s.setFstate f).free = s.free := rfl

@[simp] theorem State.setHost_buf (s : State) (h : List HostEvent) :
    (s.setHost h).buf = s.buf := rfl
@[simp] theorem State.setHost_cursor (s : State) (h : List HostEvent) :
    (s.setHost h).cursor = s.cursor := rfl
@[simp] theorem State.setHost_fstate (s : State) (h : List HostEvent) :
    (s.setHost h).fstate = s.fstate := rfl
@[simp] theorem State.setHost_cfg (s : State) (h : List HostEvent) :
    (s.setHost h).cfg = s.cfg := rfl
@[simp] theorem State.setHost_responses (s : State) (h : List HostEvent) :
    (s.setHost h).responses = s.responses := rfl
@[simp] theorem State.setHost_trace (s : State) (h : List HostEvent) :
    (s.setHost h).trace = s.trace := rfl
@[simp] theorem State.setHost_device (s : State) (h : List HostEvent) :
    (s.setHost h).device = s.device := rfl
@[simp] theorem State.setHost_host (s : State) (h : List HostEvent) :
    (s.setHost h).host = h := rfl
@[simp] theorem State.setHost_answers (s : State) (h : List HostEvent) :
    (s.setHost h).answers = s.answers := rfl
@[simp] theorem State.setHost_free (s : State) (h : List HostEvent) :
    (s.setHost h).free = s.free := rfl

@[simp] theorem State.respond_buf (s : State) (r : Response) :
    (s.respond r).buf = s.buf := rfl
@[simp] theorem State.respond_cursor (s : State) (r : Response) :
    (s.respond r).cursor = s.cursor := rfl
@[simp] theorem State.respond_fstate (s : State) (r : Response) :
    (s.respond r).fstate = s.fstate := rfl
@[simp] theorem State.respond_cfg (s : State) (r : Response) :
    (s.respond r).cfg = s.cfg := rfl
@[simp] theorem State.respond_responses (s : State) (r : Response) :
    (s.respond r).responses = s.responses ++ [r] := rfl
@[simp] theorem State.respond_trace (s : State) (r : Response) :
    (s.respond r).trace = s.trace := rfl
@[simp] theorem State.respond_device (s : State) (r : Response) :
    (s.respond r).device = s.device := rfl
@[simp] theorem State.respond_host (s : State) (r : Response) :
    (s.respond r).host = s.host := rfl
@[simp] theorem State.respond_answers (s : State) (r : Response) :
    (s.respond r).answers = s.answers := rfl
@[simp] theorem State.respond_free (s : State) (r : Response) :
    (s.respond r).free = s.free := rfl

@[simp] theorem State.cellWrite_buf (s : State) (p : Int) (v : CellWord) :
    (s.cellWrite p v).buf = s.buf.cellWrite s.cfg p v := rfl
@[simp] theorem State.cellWrite_cursor (s : State) (p : Int) (v : CellWord) :
    (s.cellWrite p v).cursor = s.cursor := rfl
@[simp] theorem State.cellWrite_fstate (s : State) (p : Int) (v : CellWord) :
    (s.cellWrite p v).fstate = s.fstate := rfl
@[simp] theorem State.cellWrite_cfg (s : State) (p : Int) (v : CellWord) :
    (s.cellWrite p v).cfg = s.cfg := rfl
@[simp] theorem State.cellWrite_responses (s : State) (p : Int) (v : CellWord) :
    (s.cellWrite p v).responses = s.responses := rfl
@[simp] theorem State.cellWrite_trace (s : State) (p : Int) (v : CellWord) :
    (s.cellWrite p v).trace = s.trace := rfl
@[simp] theorem State.cellWrite_device (s : State) (p : Int) (v : CellWord) :
    (s.cellWrite p v).device = s.device := rfl
@[simp] theorem State.cellWrite_host (s : State) (p : Int) (v : CellWord) :
    (s.cellWrite p v).host = s.host := rfl
@[simp] theorem State.cellWrite_answers (s : State) (p : Int) (v : CellWord) :
    (s.cellWrite p v).answers = s.answers := rfl
@[simp] theorem State.cellWrite_free (s : State) (p : Int) (v : CellWord) :
    (s.cellWrite p v).free = s.free := rfl

@[simp] theorem State.memWrite_buf (s : State) (bytes : List Byte) :
    (s.memWrite bytes).buf = s.buf := rfl
@[simp] theorem State.memWrite_cursor (s : State) (bytes : List Byte) :
    (s.memWrite bytes).cursor = s.cursor := rfl
@[simp] theorem State.memWrite_fstate (s : State) (bytes : List Byte) :
    (s.memWrite bytes).fstate = s.fstate := rfl
@[simp] theorem State.memWrite_cfg (s : State) (bytes : List Byte) :
    (s.memWrite bytes).cfg = s.cfg := rfl
@[simp] theorem State.memWrite_responses (s : State) (bytes : List Byte) :
    (s.memWrite bytes).responses = s.responses := rfl
@[simp] theorem State.memWrite_trace (s : State) (bytes : List Byte) :
    (s.memWrite bytes).trace = s.trace ++ [⟨s.cfg.devAddr, bytes, s.nextAnswer⟩] := rfl
@[simp] theorem State.memWrite_device (s : State) (bytes : List Byte) :
    (s.memWrite bytes).device = deviceAfter s.cfg bytes s.nextAnswer s.device := rfl
@[simp] theorem State.memWrite_host (s : State) (bytes : List Byte) :
    (s.memWrite bytes).host = s.host := rfl
@[simp] theorem State.memWrite_answers (s : State) (bytes : List Byte) :
    (s.memWrite bytes).answers = s.answers.tail := rfl
@[simp] theorem State.memWrite_free (s : State) (bytes : List Byte) :
    (s.memWrite bytes).free = s.free + 1 := rfl

@[simp] theorem resetBlock_buf (s : State) : (resetBlock s).buf = Buf.zero := rfl
@[simp] theorem resetBlock_cursor (s : State) : (resetBlock s).cursor = 0 := rfl
@[simp] theorem resetBlock_fstate (s : State) : (resetBlock s).fstate = .uninitialized := rfl
@[simp] theorem resetBlock_cfg (s : State) : (resetBlock s).cfg = s.cfg := rfl
@[simp] theorem resetBlock_responses (s : State) : (resetBlock s).responses = [] := rfl
@[simp] theorem resetBlock_trace (s : State) : (resetBlock s).trace = [] := rfl
@[simp] theorem resetBlock_device (s : State) : (resetBlock s).device = [] := rfl
@[simp] theorem resetBlock_host (s : State) : (resetBlock s).host = s.host := rfl
@[simp] theorem resetBlock_answers (s : State) : (resetBlock s).answers = s.answers := rfl
@[simp] theorem resetBlock_free (s : State) : (resetBlock s).free = s.free + 1 := rfl

@[simp] theorem State.setBuf_nextAnswer (s : State) (b : Buf) :
    (s.setBuf b).nextAnswer = s.nextAnswer := rfl
@[simp] theorem State.setCursor_nextAnswer (s : State) (k : BitVec 3) :
    (s.setCursor k).nextAnswer = s.nextAnswer := rfl
@[simp] theorem State.setFstate_nextAnswer (s : State) (f : FState) :
    (s.setFstate f).nextAnswer = s.nextAnswer := rfl
@[simp] theorem State.setHost_nextAnswer (s : State) (h : List HostEvent) :
    (s.setHost h).nextAnswer = s.nextAnswer := rfl
@[simp] theorem State.respond_nextAnswer (s : State) (r : Response) :
    (s.respond r).nextAnswer = s.nextAnswer := rfl
@[simp] theorem State.cellWrite_nextAnswer (s : State) (p : Int) (v : CellWord) :
    (s.cellWrite p v).nextAnswer = s.nextAnswer := rfl

end Sys2Proof.Machine
end

