-- ==== Sys2Proof/Laws/Ops.lean ====
section
/-! SUPPORT. One lemma per shared operation that says once everything it can do. -/

namespace Sys2Proof.Machine

/-! ### Cells -/

theorem Buf.get_set (b : Buf) (p q : Nat) (v : CellWord) :
    (b.set p v).get q = if p = q ∧ p ≤ 4 then v else b.get q := by
  rcases p with _ | _ | _ | _ | _ | p <;> rcases q with _ | _ | _ | _ | _ | q <;> simp [Buf.set, Buf.get]

theorem Buf.get_of_five_le (b : Buf) {q : Nat} (h : 5 ≤ q) : b.get q = 0 := by
  obtain ⟨k, rfl⟩ : ∃ k, q = k + 5 := ⟨q - 5, by omega⟩
  rfl

theorem Buf.get_cellWrite (cfg : Config) (b : Buf) (p : Int) (q : Nat) (v : CellWord) :
    (b.cellWrite cfg p v).get q = if p = (q : Int) ∧ q ≤ 4 then v else b.get q := by
  rw [Buf.cellWrite, Config.params_eq, Params.spec_numCells]
  split
  · rename_i h
    rw [Buf.get_set]
    congr 1
    apply propext
    omega
  · rename_i h
    rw [if_neg (by omega)]

theorem Buf.get_setDot (cfg : Config) (b : Buf) (on : Bool) (pos q : Nat) :
    (b.setDot cfg on pos).get q =
      if q = pos ∧ pos ≤ 3 then dotCell cfg on (b.get pos)
      else if q = pos ∧ pos = 4 then colonCell cfg on else b.get q := by
  rw [Buf.setDot, Config.params_eq, Params.spec_numDigits]
  split
  · rename_i h
    rw [Buf.get_set]
    by_cases hq : q = pos
    · subst hq; rw [if_pos (by omega), if_pos (by omega)]
    · rw [if_neg (by omega), if_neg (by omega), if_neg (by omega)]
  · split
    · rename_i h
      subst h
      rw [Buf.get_set]
      by_cases hq : q = 4
      · subst hq; simp
      · rw [if_neg (by omega), if_neg (by omega), if_neg (by omega)]
    · rw [if_neg (by omega), if_neg (by omega)]

/-- Two buffers with the same five cells are the same. -/
theorem Buf.ext_get {b b' : Buf} (h : ∀ q ≤ 4, b.get q = b'.get q) : b = b' := by
  have h0 := h 0 (by omega)
  have h1 := h 1 (by omega)
  have h2 := h 2 (by omega)
  have h3 := h 3 (by omega)
  have h4 := h 4 (by omega)
  cases b
  cases b'
  simp_all [Buf.get]

/-- The sixteen bytes of a snapshot, written out. -/
theorem snapshot_eq (cfg : Config) (b : Buf) :
    snapshot cfg b =
      cellBytes b.dig0 ++ cellBytes b.dig1 ++ cellBytes b.dig2 ++ cellBytes b.dig3 ++ cellBytes b.colon ++
        [0, 0, 0, 0, 0, 0] := by
  simp [snapshot, List.range_succ, Buf.get, cellBytes]

theorem snapshot_length (cfg : Config) (b : Buf) : (snapshot cfg b).length = 16 := by
  simp [snapshot_eq, cellBytes]

/-! ### Errors and the transport -/

@[simp] theorem proceed_state (s : State) : (proceed s).state = s := rfl
@[simp] theorem proceed_status (s : State) : (proceed s).status = .ok := rfl
@[simp] theorem raise_state (e : Status) (s : State) : (raise e s).state = s := rfl
@[simp] theorem raise_status (e : Status) (s : State) : (raise e s).status = e := rfl

theorem andThen_of_ok {r : Progress} (h : r.status = .ok) (k : State → Progress) : andThen r k = k r.state := by
  simp [andThen, h]

theorem andThen_of_raised {r : Progress} (h : r.status ≠ .ok) (k : State → Progress) : andThen r k = r := by
  simp [andThen, h]

/-- One transport write: the same state either way, and the status its answer gives. -/
theorem xw_eq (bytes : List Byte) (s : State) : xw bytes s = ⟨s.memWrite bytes, ackStatus s.nextAnswer⟩ := by
  unfold xw
  cases s.nextAnswer <;> rfl

theorem push_eq (s : State) : push s = ⟨s.memWrite (pushBytes s.cfg s.buf), ackStatus s.nextAnswer⟩ := xw_eq _ _

theorem cmd1_eq (b : Byte) (s : State) : cmd1 b s = ⟨s.memWrite [b], ackStatus s.nextAnswer⟩ := xw_eq _ _

@[simp] theorem pushIf_true (s : State) : pushIf true s = push s := rfl
@[simp] theorem pushIf_false (s : State) : pushIf false s = proceed s := rfl

theorem finish_eq (w : Bool) (r : Progress) : finish w r = .next (r.state.respond ⟨w, r.status⟩) := rfl

/-- What a write leaves at every address of the device image. -/
theorem image_after_deviceAfter (cfg : Config) (bytes : List Byte) (a : Answer) (m : Memory) :
    ImageAfter bytes a m (deviceAfter cfg bytes a m) := by
  intro k
  cases a with
  | fail => rfl
  | ok =>
    cases bytes with
    | nil => rfl
    | cons r data =>
      simp only [deviceAfter, Config.params_eq, Params.spec_regDisplay, List.head?_cons, Option.some.injEq, List.length_cons, Nat.add_sub_cancel,
        List.getElem?_cons_succ, reduceCtorEq, if_false]
      by_cases h : r = 0x00
      · rw [if_pos h, if_pos h, Memory.read_writeBytes]
        simp
      · rw [if_neg h, if_neg h]
        by_cases h' : r = 0x80
        · rw [if_pos (show r = displayOffByte from h'), if_pos h']
          rfl
        · rw [if_neg (show ¬ r = displayOffByte from h'), if_neg h']

/-- One transport write, as the claims speak of it. -/
theorem sentOne_memWrite (bytes : List Byte) (s : State) : SentOne bytes s (s.memWrite bytes) :=
  ⟨rfl, image_after_deviceAfter _ _ _ _, rfl, rfl⟩

/-- The end of a device command: one write, and the status its answer gives. -/
theorem finish_cmd1 (w : Bool) (b : Byte) (s : State) :
    ∃ t, finish w (cmd1 b s) = .next t ∧ t.buf = s.buf ∧ SameControl s t ∧ SentOne [b] s t ∧
      Reported w (ackStatus s.nextAnswer) s t := by
  rw [cmd1_eq, finish_eq]
  exact ⟨_, rfl, rfl, ⟨rfl, rfl, rfl, rfl⟩, ⟨rfl, image_after_deviceAfter _ _ _ _, rfl, rfl⟩, rfl⟩

/-- The end of a buffer command: the state it reached, with the push it was asked for and its one response. -/
theorem finish_pushIf (w p : Bool) (u : State) :
    ∃ t, finish w (pushIf p u) = .next t ∧ t.buf = u.buf ∧ SameControl u t ∧ EndsWithPush p w u t := by
  cases p
  · exact ⟨_, rfl, rfl, ⟨rfl, rfl, rfl, rfl⟩, ⟨rfl, rfl, rfl, rfl⟩, rfl⟩
  · rw [pushIf_true, push_eq, finish_eq]
    exact ⟨_, rfl, rfl, ⟨rfl, rfl, rfl, rfl⟩, ⟨rfl, image_after_deviceAfter _ _ _ _, rfl, rfl⟩, rfl⟩

/-- What a failed write, and what an accepted snapshot, leaves of the device image. -/
theorem deviceAfter_fail (cfg : Config) (bytes : List Byte) (m : Memory) : deviceAfter cfg bytes .fail m = [] := rfl

theorem deviceAfter_push (cfg : Config) (b : Buf) (m : Memory) :
    deviceAfter cfg (pushBytes cfg b) .ok m = Memory.writeBytes m 0 (snapshot cfg b) := by
  simp only [deviceAfter, pushBytes, if_true]

/-- What a single command byte that is accepted leaves of the device image (log entry 8). -/
theorem deviceAfter_cmd1 (cfg : Config) (b : Byte) (m : Memory) :
    deviceAfter cfg [b] .ok m = if b = 0x00 then m else if b = 0x80 then [] else m := by
  simp only [deviceAfter, Config.params_eq, Memory.writeBytes]
  rfl

/-- A command that ends in a push that is accepted: status `OK`, and the snapshot is the device image (10 R36). -/
theorem finish_push_accepted (w : Bool) (u : State) (h : u.nextAnswer = .ok) :
    ∃ t, finish w (push u) = .next t ∧ t.responses = u.responses ++ [⟨w, .ok⟩] ∧ t.buf = u.buf ∧
      ∀ a < 16, Memory.read t.device a = (snapshot u.cfg u.buf)[a]? ∧
        some (deviceByte t a) = (snapshot u.cfg u.buf)[a]? := by
  rw [push_eq, finish_eq, h]
  refine ⟨_, rfl, rfl, rfl, fun a ha => ?_⟩
  have hr : Memory.read (deviceAfter u.cfg (pushBytes u.cfg u.buf) .ok u.device) a = (snapshot u.cfg u.buf)[a]? := by
    rw [deviceAfter_push, Memory.read_writeBytes, snapshot_length, if_pos (by omega), Nat.sub_zero]
  obtain ⟨v, hv⟩ : ∃ v, (snapshot u.cfg u.buf)[a]? = some v :=
    ⟨_, List.getElem?_eq_getElem (by rw [snapshot_length]; exact ha)⟩
  simp only [State.respond_device, State.memWrite_device, h, deviceByte, hr, hv, and_self]

/-! ### The renderer's loops -/

/-- The reduction loop stops at the first fit from the top, or finds none. -/
theorem reduceFrac_cases (cfg : Config) (m b bound frac : Nat) :
    (∃ f, reduceFrac cfg m b bound frac = some f ∧ f ≤ frac ∧ scaledFloor cfg m b f < bound ∧
      ∀ k, f < k → k ≤ frac → bound ≤ scaledFloor cfg m b k) ∨
    (reduceFrac cfg m b bound frac = none ∧ ∀ k ≤ frac, bound ≤ scaledFloor cfg m b k) := by
  induction frac with
  | zero =>
    simp only [reduceFrac]
    split
    · exact .inr ⟨rfl, fun k hk => by obtain rfl : k = 0 := by omega
                                      assumption⟩
    · exact .inl ⟨0, rfl, le_refl _, by omega, fun k h1 h2 => by omega⟩
  | succ n ih =>
    simp only [reduceFrac]
    split
    · rename_i h
      rcases ih with ⟨f, h1, h2, h3, h4⟩ | ⟨h1, h2⟩
      · refine .inl ⟨f, h1, by omega, h3, fun k hk hk' => ?_⟩
        rcases Nat.lt_or_ge n k with h5 | h5
        · obtain rfl : k = n + 1 := by omega
          exact h
        · exact h4 k hk h5
      · refine .inr ⟨h1, fun k hk => ?_⟩
        rcases Nat.lt_or_ge n k with h5 | h5
        · obtain rfl : k = n + 1 := by omega
          exact h
        · exact h2 k h5
    · exact .inl ⟨n + 1, rfl, le_refl _, by omega, fun k h1 h2 => by omega⟩

theorem ndigitsFrom_spec {b N : Nat} (fuel k : Nat) (hf : N < b ^ (k + fuel)) :
    N < b ^ ndigitsFrom b N fuel k ∧ k ≤ ndigitsFrom b N fuel k ∧
      ∀ j, k ≤ j → j < ndigitsFrom b N fuel k → b ^ j ≤ N := by
  induction fuel generalizing k with
  | zero => exact ⟨hf, le_refl _, fun j h1 h2 => by simp [ndigitsFrom] at h2; omega⟩
  | succ n ih =>
    simp only [ndigitsFrom]
    split
    · rename_i h
      exact ⟨h, le_refl _, fun j h1 h2 => by omega⟩
    · rename_i h
      obtain ⟨h1, h2, h3⟩ := ih (k + 1) (by rwa [show k + 1 + n = k + (n + 1) by omega])
      refine ⟨h1, by omega, fun j h4 h5 => ?_⟩
      rcases Nat.eq_or_lt_of_le h4 with rfl | h6
      · omega
      · exact h3 j h6 h5

/-- `ndigits` is the least `k` with `N < b^k` (00 R12). -/
theorem ndigits_spec {b : Nat} (hb : 2 ≤ b) (N : Nat) :
    N < b ^ ndigits N b ∧ ∀ j < ndigits N b, b ^ j ≤ N := by
  have h : N < b ^ (0 + (N + 1)) := by
    calc N < N + 1 := by omega
      _ < b ^ (N + 1) := Nat.lt_pow_self (by omega)
      _ = _ := by simp
  obtain ⟨h1, -, h3⟩ := ndigitsFrom_spec (N + 1) 0 h
  exact ⟨h1, fun j hj => h3 j (Nat.zero_le _) hj⟩

theorem radix_baseOf {cfg : Config} {n : Nat} {b : Base} (h : baseOf cfg n = some b) : radix b = n := by
  simpa using List.find?_some h

theorem baseOf_radix (cfg : Config) (b : Base) : baseOf cfg (radix b) = some b := by
  rw [baseOf_eq]
  cases b <;> rfl

theorem radix_bounds (b : Base) : 2 ≤ radix b ∧ radix b ≤ 16 := by cases b <;> decide

/-- A digit value of a supported base is the digit itself: the table's domain is never left (40 R120, 42 R161). -/
theorem digitValue_val (N i : Nat) (b : Base) : (digitValue N (radix b) i).val = N / radix b ^ i % radix b := by
  have h := radix_bounds b
  have : N / radix b ^ i % radix b < radix b := Nat.mod_lt _ (by omega)
  simp only [digitValue, Fin.val_ofNat]
  exact Nat.mod_eq_of_lt (by omega)

theorem scan_length (cfg : Config) (pad : Nat) (text : List TextChar) (p : Nat) (out : List Mask) :
    (scan cfg pad text p out).length = out.length := by
  induction text generalizing p out with
  | nil => rfl
  | cons c text ih =>
    cases c <;> simp only [scan]
    case point => rw [ih]; unfold placePoint; split <;> simp
    all_goals split
    all_goals simp [ih]

end Sys2Proof.Machine
end

