-- ==== Sys2Proof/Laws/PerInstr.lean ====
section
/-! SUPPORT. Per instruction: the word of an instruction agrees with the match and mask of its row of
spec/opcode_table.json (spec/30_encoding.md R83). -/

namespace Sys2Proof.Laws.EncodedWordSelectsRow

/-- The encoded word selects the instruction's own row. -/
def Statement (i : Instr) : Prop := i.row.selects (encodeWord i) = true

theorem wrDigit (p dot : Bool) (pos : Nat) (mask : Mask) : Statement (.wrDigit p dot pos mask) :=
  selects_packWord _ _ _ _ _ _ fun i hi => by
    rw [getLsbD_packWord]
    interval_cases i <;> simp [Instr.row, Row.mask, Row.pattern]

theorem wrGlyph (p dot : Bool) (pos digit : Nat) : Statement (.wrGlyph p dot pos digit) :=
  selects_packWord _ _ _ _ _ _ fun i hi => by
    rw [getLsbD_packWord]
    interval_cases i <;> simp [Instr.row, Row.mask, Row.pattern]

theorem wrColon (p on : Bool) : Statement (.wrColon p on) :=
  selects_packWord _ _ _ _ _ _ fun i hi => by
    rw [getLsbD_packWord]
    interval_cases i <;> simp [Instr.row, Row.mask, Row.pattern]

theorem setDot (p on : Bool) (pos : Nat) : Statement (.setDot p on pos) :=
  selects_packWord _ _ _ _ _ _ fun i hi => by
    rw [getLsbD_packWord]
    interval_cases i <;> simp [Instr.row, Row.mask, Row.pattern]

theorem clear (p : Bool) : Statement (.clear p) :=
  selects_packWord _ _ _ _ _ _ fun i hi => by
    rw [getLsbD_packWord]
    interval_cases i <;> simp [Instr.row, Row.mask, Row.pattern]

theorem nop : Statement .nop := by
  unfold Statement
  decide

theorem flush : Statement .flush := by
  unfold Statement
  decide

theorem render (frac base : Nat) (val : ValWord) : Statement (.render frac base val) :=
  selects_packWord _ _ _ _ _ _ fun i hi => by
    rw [getLsbD_packWord]
    interval_cases i <;> simp [Instr.row, Row.mask, Row.pattern]

theorem facadeBegin : Statement .facadeBegin := by
  unfold Statement
  decide

theorem dispOn : Statement .dispOn := by
  unfold Statement
  decide

theorem dispOff : Statement .dispOff := by
  unfold Statement
  decide

theorem setBright (level : Nat) : Statement (.setBright level) :=
  selects_packWord _ _ _ _ _ _ fun i hi => by
    rw [getLsbD_packWord]
    interval_cases i <;> simp [Instr.row, Row.mask, Row.pattern]

theorem setBlink (rate : Nat) : Statement (.setBlink rate) :=
  selects_packWord _ _ _ _ _ _ fun i hi => by
    rw [getLsbD_packWord]
    interval_cases i <;> simp [Instr.row, Row.mask, Row.pattern]

theorem wrChar (p : Bool) (code : Nat) : Statement (.wrChar p code) :=
  selects_packWord _ _ _ _ _ _ fun i hi => by
    rw [getLsbD_packWord]
    interval_cases i <;> simp [Instr.row, Row.mask, Row.pattern]

end Sys2Proof.Laws.EncodedWordSelectsRow
end

