-- ==== Sys2Proof/Tests/Slice0.lean ====
section
/-! SUPPORT. Small checks of one step or one word each, the expected values from spec/95_test_vectors.md (section named
in each comment), the smoke tests of WellFormed, and a witness for every statement that has hypotheses. -/

namespace Sys2Proof.Tests

open Sys2Proof Sys2Proof.Machine

/-! ### Well-formedness: one ill-formed term for each check -/

theorem test_illformed_wrDigit_pos : ¬ (Instr.wrDigit false false 256 0).WellFormed := by decide
theorem test_illformed_wrGlyph_pos : ¬ (Instr.wrGlyph false false 256 0).WellFormed := by decide
theorem test_illformed_wrGlyph_digit : ¬ (Instr.wrGlyph false false 0 256).WellFormed := by decide
theorem test_illformed_setDot_pos : ¬ (Instr.setDot false false 256).WellFormed := by decide
theorem test_illformed_render_frac : ¬ (Instr.render 256 10 0).WellFormed := by decide
theorem test_illformed_render_base : ¬ (Instr.render 0 256 0).WellFormed := by decide
theorem test_illformed_setBright : ¬ (Instr.setBright 256).WellFormed := by decide
theorem test_illformed_setBlink : ¬ (Instr.setBlink 256).WellFormed := by decide
theorem test_illformed_wrChar : ¬ (Instr.wrChar false 256).WellFormed := by decide

/-! ### Decoding: one word written out per constructor, from 30 R81 and R82 -/

-- OP 0001, P 1, 00, F 1, A 00000010, B 01000000
theorem test_decode_wrDigit :
    decode ⟨0b00011001000000100100000000000000#32, 0⟩ = .ok (.wrDigit true true 2 0x40) := by decide
theorem test_decode_wrGlyph :
    decode ⟨0b00100000000000110000010100000000#32, 0⟩ = .ok (.wrGlyph false false 3 5) := by decide
theorem test_decode_wrColon :
    decode ⟨0b00110001000000000000000000000000#32, 0⟩ = .ok (.wrColon false true) := by decide
theorem test_decode_setDot :
    decode ⟨0b01001001000000100000000000000000#32, 0⟩ = .ok (.setDot true true 2) := by decide
theorem test_decode_clear : decode ⟨0b01011000000000000000000000000000#32, 0⟩ = .ok (.clear true) := by decide
theorem test_decode_nop : decode ⟨0b01100000000000000000000000000000#32, 0⟩ = .ok .nop := by decide
theorem test_decode_flush : decode ⟨0b01101000000000000000000000000000#32, 0⟩ = .ok .flush := by decide
theorem test_decode_render :
    decode ⟨0b01110000000000100000101000000000#32, 0x00000003243F3E03⟩ = .ok (.render 2 10 0x00000003243F3E03) := by
  decide
theorem test_decode_begin : decode ⟨0b10000000000000000000000000000000#32, 7⟩ = .ok .facadeBegin := by decide
theorem test_decode_dispOn : decode ⟨0b10010000000000000000000000000000#32, 0⟩ = .ok .dispOn := by decide
theorem test_decode_dispOff : decode ⟨0b10100000000000000000000000000000#32, 0⟩ = .ok .dispOff := by decide
theorem test_decode_setBright :
    decode ⟨0b10110000000001110000000000000000#32, 0⟩ = .ok (.setBright 7) := by decide
theorem test_decode_setBlink :
    decode ⟨0b11000000000000100000000000000000#32, 0⟩ = .ok (.setBlink 2) := by decide
theorem test_decode_wrChar :
    decode ⟨0b11010000001101110000000000000000#32, 0⟩ = .ok (.wrChar false 0x37) := by decide

/-- The words of V-X that are illegal for a reserved opcode, a reserved bit, and an unused field. -/
theorem test_decode_illegal :
    decode ⟨0xE0000000, 0⟩ = .error .reservedOpcode ∧ decode ⟨0x12000000, 0⟩ = .error .reservedBits ∧
      decode ⟨0x70000A01, 0⟩ = .error .reservedBits ∧ decode ⟨0x61000000, 0⟩ = .error .unusedField ∧
      decode ⟨0x78000A00, 0⟩ = .error .unusedField ∧ decode ⟨0xD0370100, 0⟩ = .error .unusedField := by decide

/-- The table's numbering of a RENDER transaction: `cmd` in bits 31..0, `val` in bits 95..32. -/
theorem test_decodeTableWord :
    decodeTableWord 32 0x70000A00 = some (.render 0 10 0) ∧
      decodeTableWord 96 0xFFFFFFFB0000000070000A00 = some (.render 0 10 0xFFFFFFFB00000000) ∧
      decodeTableWord 32 0x00000000 = none := by decide

/-! ### A small state, and one step from it -/

/-- The configuration of the vectors: the default table and address, the variant chosen. -/
def testConfig (v : Variant) : Config := { resetConfig with variant := v }

/-- The start state of V-B, with a transport that answers `answers`. -/
def vecState (v : Variant) (answers : List Answer) : State :=
  { State.reset with
    buf := ⟨0x003F, 0x004F, 0x00E6, 0x0000, 0x00FE⟩, cursor := 3, fstate := .active
    cfg := testConfig v, answers := answers }

/-- The reset state with the variant chosen. -/
def freshState (v : Variant) (answers : List Answer) : State :=
  { State.reset with cfg := testConfig v, answers := answers }

/-- The state after a step that gives one. -/
def stateOf (o : Host.Outcome State Fault Refusal) : Option State :=
  match o with
  | .next t => some t
  | .fault _ => none
  | .refused _ => none

/-- The five cells after. -/
def cellsOf (o : Host.Outcome State Fault Refusal) : Option Buf := (stateOf o).map (·.buf)
/-- The byte sequences sent. -/
def sentBy (o : Host.Outcome State Fault Refusal) : Option (List (List Byte)) :=
  (stateOf o).map (fun t => t.trace.map (·.bytes))
/-- The responses as their four bits. -/
def bitsOf (o : Host.Outcome State Fault Refusal) : Option (List (BitVec 4)) :=
  (stateOf o).map (fun t => t.responses.map responseBits)

-- V-B
theorem test_wrDigit_dot :
    cellsOf (exec (.wrDigit false true 3 0x6D) (vecState .a [])) = some ⟨0x3F, 0x4F, 0xE6, 0xED, 0xFE⟩ := by decide
theorem test_wrDigit_push :
    sentBy (exec (.wrDigit true false 0 0x06) (vecState .a [.ok])) =
      some [[0x00, 0x06, 0, 0x4F, 0, 0xE6, 0, 0, 0, 0xFE, 0, 0, 0, 0, 0, 0, 0]] := by decide
theorem test_wrGlyph_b_is_not_minus :
    cellsOf (exec (.wrGlyph false false 2 11) (vecState .a [])) = some ⟨0x3F, 0x4F, 0x7C, 0, 0xFE⟩ := by decide
theorem test_wrGlyph_outOfRange :
    bitsOf (exec (.wrGlyph true false 9 255) (vecState .a [.ok])) = some [3] ∧
      sentBy (exec (.wrGlyph true false 9 255) (vecState .a [.ok])) = some [] := by decide
theorem test_wrColon_clears_other_bits :
    cellsOf (exec (.wrColon false true) (vecState .a [])) = some ⟨0x3F, 0x4F, 0xE6, 0, 1⟩ := by decide
theorem test_setDot_off :
    cellsOf (exec (.setDot false false 2) (vecState .a [])) = some ⟨0x3F, 0x4F, 0x66, 0, 0xFE⟩ := by decide
theorem test_setDot_colon :
    cellsOf (exec (.setDot false true 4) (vecState .a [])) = some ⟨0x3F, 0x4F, 0xE6, 0, 1⟩ := by decide
theorem test_clear_keeps_cursor :
    (stateOf (exec (.clear false) (vecState .a []))).map (fun t => (t.buf, t.cursor)) = some (Buf.zero, 3) := by decide
theorem test_nop : bitsOf (exec .nop (vecState .a [])) = some [0] := by decide
theorem test_flush_image :
    (stateOf (exec .flush (vecState .a [.ok]))).map (fun t => (List.range 16).map (Memory.read t.device)) =
      some ([0x3F, 0, 0x4F, 0, 0xE6, 0, 0, 0, 0xFE, 0, 0, 0, 0, 0, 0, 0].map some) := by decide

-- V-A, V-R
theorem test_render_a_reduces :
    cellsOf (exec (.render 2 10 0x0000007B74BC6A7F) (freshState .a [.ok])) = some ⟨0x06, 0x5B, 0xCF, 0x6D, 0⟩ := by
  decide +kernel
theorem test_render_b_dot_gate :
    cellsOf (exec (.render 1 10 0x0000000C80000000) (freshState .b [.ok])) = some ⟨0, 0x06, 0xDB, 0x6D, 0⟩ := by
  decide +kernel

-- V-F
theorem test_begin :
    (stateOf (exec .facadeBegin (freshState .a [.ok, .ok, .ok]))).map (fun t => (t.trace.map (·.bytes), t.fstate)) =
      some ([[0x21], [0x81], [0xEF]], .active) := by decide
theorem test_begin_second_write_fails :
    (stateOf (exec .facadeBegin (freshState .a [.ok, .fail]))).map
        (fun t => (t.trace.map (·.bytes), t.fstate, t.responses.map responseBits)) =
      some ([[0x21], [0x81]], .uninitialized, [4]) := by decide
theorem test_dispOn : sentBy (exec .dispOn (freshState .a [.ok])) = some [[0x81]] := by decide
theorem test_dispOff : sentBy (exec .dispOff (freshState .a [.ok])) = some [[0x80]] := by decide
theorem test_setBright_clamped : sentBy (exec (.setBright 16) (freshState .a [.ok])) = some [[0xEF]] := by decide
theorem test_setBlink_two : sentBy (exec (.setBlink 2) (freshState .a [.ok])) = some [[0x85]] := by decide
theorem test_setBlink_coerced : sentBy (exec (.setBlink 4) (freshState .a [.ok])) = some [[0x81]] := by decide

-- V-W and V-T
theorem test_wrChar_colon_cell :
    (stateOf (exec (.wrChar false 0x34) { vecState .a [] with cursor := 4 })).map (fun t => (t.buf.colon, t.cursor)) =
      some (0x66, 5) := by decide
theorem test_wrChar_failed_push_reports_written :
    bitsOf (exec (.wrChar true 0x35) (vecState .a [.fail])) = some [12] := by decide

/-- An instruction placed by `withFetchWord` is the first one the machine runs after reset. -/
theorem test_withFetchWord_from_reset :
    cellsOf (step (State.reset.withFetchWord 32 0x10024000)) = some ⟨0, 0, 0x40, 0, 0⟩ := by decide

/-- P5, command 7: an illegal word. -/
theorem test_illegal_word_answered :
    bitsOf (step { vecState .a [] with host := [.command ⟨0x7F000A00, 0⟩] }) = some [1] := by decide

/-- P1 and P2 as assembler text (30 R95). -/
theorem test_assemble_render : assemble "RENDER -12.5, 1, 10" = .ok (.render 1 10 0xFFFFFFF380000000) := by decide +kernel
theorem test_assemble_lines :
    assemble "SET_DOT.P 3, OFF" = .ok (.setDot true false 3) ∧
      assemble "WR_DIGIT 3, 0x6D, DOT" = .ok (.wrDigit false true 3 0x6D) ∧
      assemble "NOP.P" = .error .noPushForm := by decide +kernel

/-! ### Witnesses: a state and operands that meet the hypotheses of each statement that has some -/

/-- A FLUSH waits at the port of a state that meets every invariant. -/
def flushWaiting : State := { vecState .a [.ok, .ok] with host := [.command ⟨0x68000000, 0⟩] }

/-- The state one FLUSH later: one accepted snapshot in the trace and in the image. -/
def flushed : Option State := stateOf (step flushWaiting)

theorem test_wit_reset_event : { vecState .a [] with host := [.reset] }.host = .reset :: [] := rfl

theorem test_wit_invariants :
    (∃ t, step flushWaiting = .next t) ∧ CellsNarrow flushWaiting.buf ∧ CursorLegal flushWaiting.cursor ∧
      Memory.wf flushWaiting.device = true ∧ TraceLegal flushWaiting ∧ ImageKnown flushWaiting :=
  ⟨⟨_, rfl⟩, by decide, by decide, by decide, (fun w hw => by cases hw), rfl⟩

/-- The invariants of the trace and the image also meet a state whose trace and image are not empty. -/
theorem test_wit_image_not_empty :
    flushed.map (fun t => (decide (t.device = knownImage t.trace.reverse), t.trace.length, t.device.length)) =
      some (true, 1, 16) := by decide

theorem test_wit_command_presented : flushWaiting.host = .command ⟨0x68000000, 0⟩ :: [] := rfl
theorem test_wit_wellformed_bound : (Instr.render 255 255 0xFFFFFFFFFFFFFFFF).WellFormed := by decide
theorem test_wit_decode_ok : decode ⟨0x70FF0A00, 5⟩ = .ok (.render 255 10 5) ∧ Instr.row (.render 255 10 5) = .render := by
  decide
theorem test_wit_row_selected : Row.flush.selects 0x68000000 = true := by decide
theorem test_wit_illegal :
    { vecState .a [] with host := [.command ⟨0, 0⟩] }.host = .command ⟨0, 0⟩ :: [] ∧
      decode ⟨0, 0⟩ = .error .reservedOpcode := by decide
theorem test_wit_not_render : opField 0x68000000 ≠ 0x7 := by decide
theorem test_wit_step_runs :
    flushWaiting.host = .command ⟨0x68000000, 0⟩ :: [] ∧ decode ⟨0x68000000, 0⟩ = .ok .flush ∧
      decodeTableWord 32 0x68000000 = some .flush := by decide
theorem test_wit_nothing_presented : (vecState .a []).host = [] := rfl
theorem test_wit_snapshot_narrow : CellsNarrow (vecState .a []).buf := by decide
theorem test_wit_accepted : (vecState .a [.ok]).nextAnswer = .ok := rfl
/-- One pushing form of each kind, and the two that end before their push. -/
theorem test_wit_pushes :
    ([.wrDigit true false 0 0, .wrGlyph true false 0 15, .wrColon true true, .setDot true true 0, .clear true, .flush,
      .render 0 16 0, .wrChar true 0] : List Instr).all pushes = true ∧
      pushes (.wrGlyph true false 0 16) = false ∧ pushes (.render 0 12 0) = false := by decide
theorem test_wit_failed :
    ∃ t, exec .flush (vecState .a [.fail]) = .next t ∧
      t.responses = (vecState .a [.fail]).responses ++ [⟨false, .transportFailure⟩] := ⟨_, rfl, rfl⟩
theorem test_wit_digit_sixteen : 15 < 16 := by decide
theorem test_wit_setDot_positions : 3 ≤ 3 ∧ 4 = 4 ∧ (0 ≤ 4 ∧ 0 ≠ 3) := by decide
theorem test_wit_position_five : 5 ≤ 5 ∧ { vecState .a [] with cursor := 5 }.cursor = 5 := by decide
/-- The answers the first, second and third write of BEGIN get. -/
def beginAnswers (s : State) : List Answer :=
  [s.nextAnswer, (s.memWrite [0x21]).nextAnswer, ((s.memWrite [0x21]).memWrite [0x81]).nextAnswer]

theorem test_wit_begin_accepted : beginAnswers (freshState .a [.ok, .ok, .ok]) = [.ok, .ok, .ok] := by decide
theorem test_wit_begin_fails :
    (freshState .a [.fail]).nextAnswer = .fail ∧
      (beginAnswers (freshState .a [.ok, .fail])).take 2 = [.ok, .fail] ∧
      beginAnswers (freshState .a [.ok, .ok, .fail]) = [.ok, .ok, .fail] := by decide
theorem test_wit_newline_codes : (0x0A = 0x0A ∨ 0x0A = 0x0D) ∧ (0x0D = 0x0A ∨ 0x0D = 0x0D) := by decide
theorem test_wit_other_codes :
    (0x2F ≠ 0x0A ∧ 0x2F ≠ 0x0D ∧ (0x2F < 0x30 ∨ 0x39 < 0x2F)) ∧ (0x3A ≠ 0x0A ∧ 0x3A ≠ 0x0D ∧ (0x3A < 0x30 ∨ 0x39 < 0x3A)) := by
  decide
theorem test_wit_unsupported_base : ¬ IsBase 12 := by decide
theorem test_wit_bases : IsBase 2 ∧ IsBase 8 ∧ IsBase 10 ∧ IsBase 16 := by decide
theorem test_wit_two_states :
    IsBase 16 ∧ (vecState .a []).cfg = (freshState .a []).cfg ∧ (vecState .a []).buf ≠ (freshState .a []).buf := by
  decide

/-- `RENDER 9999.5, 0, 10`: the least value that overflows (42 R158). -/
theorem test_wit_overflow :
    IsBase 10 ∧ (freshState .a []).cfg.variant = .a ∧
      ((10 : Nat) : ℚ) ^ slotsOf (valueOf 0x0000270F80000000) ≤ |valueOf 0x0000270F80000000| + 1 / 2 := by
  have h : valueOf 0x0000270F80000000 = 9999 + 1 / 2 := by
    rw [valueOf, show (0x0000270F80000000 : ValWord).toInt = 42947525476352 by decide]; norm_num
  refine ⟨by decide, rfl, ?_⟩
  rw [h, slotsOf, abs_of_pos (by norm_num), if_neg (by norm_num)]
  norm_num

/-- `RENDER -999, 0, 10`: a negative value that fits. -/
theorem test_wit_fits :
    IsBase 10 ∧ (freshState .a []).cfg.variant = .a ∧
      |valueOf 0xFFFFFC1900000000| + 1 / 2 < ((10 : Nat) : ℚ) ^ slotsOf (valueOf 0xFFFFFC1900000000) := by
  have h : valueOf 0xFFFFFC1900000000 = -999 := by
    rw [valueOf, show (0xFFFFFC1900000000 : ValWord).toInt = -4290672328704 by decide]; norm_num
  refine ⟨by decide, rfl, ?_⟩
  rw [h, slotsOf, if_pos (by norm_num)]
  norm_num

/-- `RENDER -5, 255, 10`: the reduced `f` is 2 (V-A). -/
theorem test_wit_from_one_up :
    (freshState .a []).cfg.variant = .a ∧ 1 ≤ |valueOf 0xFFFFFFFB00000000| ∧
      reduceFrac (freshState .a []).cfg (valueMag 0xFFFFFFFB00000000) (radix .dec)
        (radix .dec ^ slots (freshState .a []).cfg (valueNeg 0xFFFFFFFB00000000)) 255 = some 2 := by
  refine ⟨rfl, ?_, ?_⟩
  · rw [valueOf, show (0xFFFFFFFB00000000 : ValWord).toInt = -21474836480 by decide]; norm_num
  · decide +kernel

theorem test_wit_text_has_point :
    (255 ≤ 255) ∧ TextChar.point ∈ formatB (testConfig .b) (valueNeg 0x0000000C80000000) (valueMag 0x0000000C80000000) 1 (radix .dec) := by
  decide +kernel

/-- Every branch of the scan statement: a blank, a character with its dot, a slot past the text. -/
theorem test_wit_scan_branches :
    padOf (testConfig .b) [.digit 1, .point, .digit 2] = 2 ∧ pointAfter [.digit 1, .point, .digit 2] 1 = true ∧
      padOf (testConfig .b) [.other] = 4 ∧ (slotChars [.digit 1, .point])[1]? = none := by decide

theorem test_wit_variant_b : (freshState .b []).cfg.variant = .b := rfl
theorem test_wit_read_back :
    (∀ d e : Fin 16, (freshState .a []).cfg.glyph[d] = (freshState .a []).cfg.glyph[e] → d = e) ∧
      (∀ d : Fin 16, (freshState .a []).cfg.glyph[d] ≠ 0x00) ∧ 9999 < radix .dec ^ 4 := by decide
theorem test_wit_integers :
    ((0 : Int) ≤ 9999 ∧ (9999 : Int) < (radix .dec : Int) ^ 4) ∧ (-((radix .dec : Int) ^ 3) < -999 ∧ (-999 : Int) < 0) := by
  decide
theorem test_wit_exec_next :
    (∃ t, exec .flush (vecState .a [.ok]) = .next t) ∧ Instr.row .flush ≠ .wrChar ∧ Instr.row .flush ≠ .facadeBegin :=
  ⟨⟨_, rfl⟩, by decide, by decide⟩
theorem test_wit_active : flushWaiting.fstate = .active ∧ ∃ t, step flushWaiting = .next t := ⟨rfl, _, rfl⟩
theorem test_wit_assembled : assembleChars "BEGIN".toList = .ok .facadeBegin := by decide +kernel

end Sys2Proof.Tests
end

section
/-! The statements of spec/00_scope.md. -/

namespace Sys2Proof.Proofs.Scope

/-- Settles O60: a configuration carries the proof that its parameters are those of 00 R7, and these are literals. -/
theorem parametersHaveTheSpecValues : Obligations.ParametersHaveTheSpecValues := by
  intro s
  rw [Config.params_eq]
  decide

end Sys2Proof.Proofs.Scope
end

section
/-! SUPPORT. What one step can do: the step by the event presented, the commands that check an operand first, and every
command as a sequence of a few kinds of effect, from which an invariant is proved effect by effect. -/

namespace Sys2Proof.Machine

/-! ### The step, by what the host presents -/

theorem step_of_idle {s : State} (h : s.host = []) : step s = .next s := by
  rw [step, servePort, h]

theorem step_of_command {s : State} {c : Command} {rest : List HostEvent} (h : s.host = .command c :: rest) :
    step s = runCommand c (s.setHost rest) := by
  rw [step, servePort, h]

theorem step_of_reset {s : State} {rest : List HostEvent} (h : s.host = .reset :: rest) :
    step s = .next (resetBlock (s.setHost rest)) := by
  rw [step, servePort, h]

theorem runCommand_of_ok {c : Command} {i : Instr} (h : decode c = .ok i) (s : State) :
    runCommand c s = exec i s := by
  rw [runCommand, h]

theorem runCommand_of_error {c : Command} {e : DecodeError} (h : decode c = .error e) (s : State) :
    runCommand c s = illegalWord s := by
  rw [runCommand, h]

/-! ### The commands that check an operand first -/

theorem exec_wrGlyph_of_lt (p dot : Bool) (pos : Nat) {digit : Nat} (h : digit < 16) (s : State) :
    exec (.wrGlyph p dot pos digit) s =
      finish false (pushIf p (s.cellWrite pos (cellOf s.cfg (glyph s.cfg.glyph ⟨digit, h⟩) dot))) := by
  simp only [exec, execWrGlyph, glyphFor, dif_pos h]

theorem exec_wrGlyph_of_not_lt (p dot : Bool) (pos : Nat) {digit : Nat} (h : ¬ digit < 16) (s : State) :
    exec (.wrGlyph p dot pos digit) s = finish false (raise .outOfRange s) := by
  simp only [exec, execWrGlyph, glyphFor, dif_neg h]

theorem exec_render_of_some {s : State} {base : Nat} {b : Base} (h : baseOf s.cfg base = some b) (frac : Nat)
    (val : ValWord) :
    exec (.render frac base val) s = finish false (push (s.setBuf (paintValue s.cfg val frac b s.buf))) := by
  simp only [exec, execRender, h]

theorem exec_render_of_none {s : State} {base : Nat} (h : baseOf s.cfg base = none) (frac : Nat) (val : ValWord) :
    exec (.render frac base val) s = finish false (raise .unsupportedBase s) := by
  simp only [exec, execRender, h]

theorem exists_baseOf_of_isBase (cfg : Config) {n : Nat} (h : IsBase n) : ∃ b, baseOf cfg n = some b := by
  rw [baseOf_eq]
  rcases h with rfl | rfl | rfl | rfl <;> exact ⟨_, rfl⟩

/-! ### High bytes of the cells -/

theorem highByteZero_setWidth (m : Mask) : highByteZero (m.setWidth 16) := by
  apply BitVec.eq_of_getLsbD_eq
  intro i hi
  simp [hi]

theorem highByteZero_cellOf (cfg : Config) (m : Mask) (dot : Bool) : highByteZero (cellOf cfg m dot) :=
  highByteZero_setWidth _

theorem highByteZero_colonCell (cfg : Config) (on : Bool) : highByteZero (colonCell cfg on) := by
  rw [colonCell_eq]
  cases on <;> decide

theorem highByteZero_dotCell (cfg : Config) (on : Bool) {v : CellWord} (h : highByteZero v) :
    highByteZero (dotCell cfg on v) := by
  rw [dotCell_eq]
  cases on
  · simp [highByteZero, BitVec.extractLsb'_and, h]
  · simp [highByteZero, BitVec.extractLsb'_or, h]

/-- Narrow cells, cell by cell; the cells 5 to 7 that read zero are no exception. -/
theorem cellsNarrow_iff_get {b : Buf} : CellsNarrow b ↔ ∀ q, highByteZero (b.get q) := by
  constructor
  · rintro ⟨h0, h1, h2, h3, h4⟩ q
    rcases q with _ | _ | _ | _ | _ | q
    · exact h0
    · exact h1
    · exact h2
    · exact h3
    · exact h4
    · rw [Buf.get_of_five_le b (by omega)]
      decide
  · exact fun h => ⟨h 0, h 1, h 2, h 3, h 4⟩

theorem cellsNarrow_zero : CellsNarrow Buf.zero := by decide

theorem CellsNarrow.cellWrite {b : Buf} (h : CellsNarrow b) (cfg : Config) (p : Int) {v : CellWord}
    (hv : highByteZero v) : CellsNarrow (b.cellWrite cfg p v) := by
  rw [cellsNarrow_iff_get] at h ⊢
  intro q
  rw [Buf.get_cellWrite]
  split
  · exact hv
  · exact h q

theorem CellsNarrow.setDot {b : Buf} (h : CellsNarrow b) (cfg : Config) (on : Bool) (pos : Nat) :
    CellsNarrow (b.setDot cfg on pos) := by
  rw [cellsNarrow_iff_get] at h ⊢
  intro q
  rw [Buf.get_setDot]
  split
  · exact highByteZero_dotCell cfg on (h pos)
  · split
    · exact highByteZero_colonCell cfg on
    · exact h q

theorem CellsNarrow.setColon {b : Buf} (h : CellsNarrow b) (cfg : Config) (on : Bool) :
    CellsNarrow (b.set 4 (colonCell cfg on)) := by
  obtain ⟨h0, h1, h2, h3, -⟩ := h
  exact ⟨h0, h1, h2, h3, highByteZero_colonCell cfg on⟩

theorem CellsNarrow.paintDigits {b : Buf} (h : CellsNarrow b) (cfg : Config) (N base f n : Nat) :
    CellsNarrow (paintDigits cfg N base f n b) :=
  List.foldlRecOn _ _ h fun _ hb _ _ => hb.cellWrite _ _ (highByteZero_cellOf ..)

theorem CellsNarrow.paintSign {b : Buf} (h : CellsNarrow b) (cfg : Config) (neg : Bool) (n : Nat) :
    CellsNarrow (paintSign cfg neg n b) := by
  unfold Machine.paintSign
  split
  · exact h.cellWrite _ _ (highByteZero_cellOf ..)
  · exact h

theorem CellsNarrow.paintBlanks {b : Buf} (h : CellsNarrow b) (cfg : Config) (k : Nat) :
    CellsNarrow (paintBlanks cfg k b) :=
  List.foldlRecOn _ _ h fun _ hb _ _ => hb.cellWrite _ _ (highByteZero_cellOf ..)

theorem CellsNarrow.renderA {b : Buf} (h : CellsNarrow b) (cfg : Config) (neg : Bool) (m frac base : Nat) :
    CellsNarrow (renderA cfg neg m frac base b) := by
  unfold Machine.renderA
  split
  · obtain ⟨-, -, -, -, h4⟩ := h
    exact ⟨highByteZero_cellOf .., highByteZero_cellOf .., highByteZero_cellOf .., highByteZero_cellOf .., h4⟩
  · exact ((h.paintDigits ..).paintSign ..).paintBlanks ..

theorem CellsNarrow.renderB {b : Buf} (h : CellsNarrow b) (cfg : Config) (neg : Bool) (m frac base : Nat) :
    CellsNarrow (renderB cfg neg m frac base b) := by
  obtain ⟨-, -, -, -, h4⟩ := h
  exact ⟨highByteZero_cellOf .., highByteZero_cellOf .., highByteZero_cellOf .., highByteZero_cellOf .., h4⟩

theorem CellsNarrow.paintValue {b : Buf} (h : CellsNarrow b) (cfg : Config) (val : ValWord) (frac : Nat)
    (base : Base) : CellsNarrow (paintValue cfg val frac base b) := by
  unfold Machine.paintValue
  split
  · exact h.renderA ..
  · exact h.renderB ..

/-! ### The command bytes -/

theorem isDeviceWrite_blinkByte (rate : Nat) : IsDeviceWrite [blinkByte rate] := by
  have hle : blinkCode rate ≤ 3 := by
    rw [blinkCode, blinkMax]
    split <;> omega
  rw [blinkByte]
  generalize blinkCode rate = r at hle
  right; right; left
  interval_cases r <;> decide

theorem isDeviceWrite_brightnessByte (level : Nat) : IsDeviceWrite [brightnessByte level] := by
  have hle : min level brightnessMax ≤ 15 := Nat.min_le_right ..
  rw [brightnessByte]
  generalize min level brightnessMax = n at hle
  right; right; right; left
  refine ⟨n, hle, ?_⟩
  interval_cases n <;> decide

/-- The only listed sequences that begin with the header 0x00 are the snapshots, 17 bytes long. -/
theorem IsDeviceWrite.length_of_head {bs : List Byte} (h : IsDeviceWrite bs) (h0 : bs.head? = some 0x00) :
    bs.length = 17 := by
  rcases h with rfl | rfl | h | ⟨n, hn, rfl⟩ | ⟨c0, c1, c2, c3, c4, rfl⟩
  · simp at h0
  · simp at h0
  · fin_cases h <;> simp at h0
  · interval_cases n <;> simp at h0
  · rfl

/-! ### The effects a command is made of -/

/-- One thing a command of row `r` may do to the state. A new buffer is as narrow as the old one; the cursor is WR_CHAR's
and the Facade state BEGIN's; what is sent is a listed command byte or the snapshot of the buffer of this moment. -/
inductive Effect (r : Row) (s : State) : State → Prop
  | paint {b : Buf} (hb : CellsNarrow s.buf → CellsNarrow b) : Effect r s (s.setBuf b)
  | moveCursor {k : BitVec 3} (hr : r = .wrChar) (hk : k = 0 ∨ k = advanceCursor s.cfg s.cursor) :
      Effect r s (s.setCursor k)
  | activate (hr : r = .facadeBegin) : Effect r s (s.setFstate .active)
  | sendByte {b : Byte} (hb : IsDeviceWrite [b]) : Effect r s (s.memWrite [b])
  | sendSnapshot : Effect r s (s.memWrite (pushBytes s.cfg s.buf))
  | answer (a : Response) : Effect r s (s.respond a)

/-- Effects in sequence. -/
abbrev Effects (r : Row) : State → State → Prop := Relation.ReflTransGen (Effect r)

/-- What every effect keeps, a sequence of effects keeps. -/
theorem Effects.keeps {r : Row} {P : State → Prop} (hP : ∀ {u v}, Effect r u v → P u → P v) {s t : State}
    (h : Effects r s t) (hs : P s) : P t := by
  induction h with
  | refl => exact hs
  | tail _ he ih => exact hP he ih

/-- A field no effect changes is the same at the end of a sequence. -/
theorem Effects.field_eq {r : Row} {α : Type} {f : State → α} (hf : ∀ {u v}, Effect r u v → f v = f u)
    {s t : State} (h : Effects r s t) : f t = f s :=
  h.keeps (P := fun u => f u = f s) (fun he hu => (hf he).trans hu) rfl

section
variable {r : Row} {s : State}

theorem effects_pushIf (p : Bool) {u : State} (h : Effects r s u) : Effects r s (pushIf p u).state := by
  cases p
  · exact h
  · rw [pushIf_true, push_eq]
    exact h.tail .sendSnapshot

theorem effects_cmd1 {b : Byte} (hb : IsDeviceWrite [b]) {u : State} (h : Effects r s u) :
    Effects r s (cmd1 b u).state := by
  rw [cmd1_eq]
  exact h.tail (.sendByte hb)

theorem effects_andThen {q : Progress} {k : State → Progress} (hq : Effects r s q.state)
    (hk : ∀ {u}, Effects r s u → Effects r s (k u).state) : Effects r s (andThen q k).state := by
  by_cases h : q.status = .ok
  · rw [andThen_of_ok h]
    exact hk hq
  · rw [andThen_of_raised h]
    exact hq

theorem effects_finish {w : Bool} {q : Progress} {t : State} (hq : Effects r s q.state)
    (h : finish w q = .next t) : Effects r s t := by
  rw [finish_eq] at h
  cases h
  exact hq.tail (.answer _)

end

theorem effects_charBody (code : Nat) (s : State) : Effects .wrChar s (charBody code s) := by
  unfold charBody
  split
  · exact .single (.moveCursor rfl (.inl rfl))
  · split
    · exact .tail (.single (.paint fun hb => hb.cellWrite _ _ (highByteZero_cellOf ..)))
        (.moveCursor rfl (.inr rfl))
    · exact .refl

theorem effects_execBegin {s t : State} (h : execBegin s = .next t) : Effects .facadeBegin s t :=
  effects_finish
    (effects_andThen (effects_cmd1 (.inl rfl) .refl) fun h₁ =>
      effects_andThen (effects_cmd1 (isDeviceWrite_blinkByte 0) h₁) fun h₂ =>
        effects_andThen (effects_cmd1 (isDeviceWrite_brightnessByte _) h₂) fun h₃ => h₃.tail (.activate rfl)) h

/-- Every command is a sequence of the effects its row may have. -/
theorem exec_effects {i : Instr} {s t : State} (h : exec i s = .next t) : Effects i.row s t := by
  cases i with
  | wrDigit p dot pos mask =>
    exact effects_finish
      (effects_pushIf p (.single (.paint fun hb => hb.cellWrite _ _ (highByteZero_cellOf ..)))) h
  | wrGlyph p dot pos digit =>
    by_cases hd : digit < 16
    · rw [exec_wrGlyph_of_lt _ _ _ hd] at h
      exact effects_finish
        (effects_pushIf p (.single (.paint fun hb => hb.cellWrite _ _ (highByteZero_cellOf ..)))) h
    · rw [exec_wrGlyph_of_not_lt _ _ _ hd] at h
      exact effects_finish .refl h
  | wrColon p on => exact effects_finish (effects_pushIf p (.single (.paint fun hb => hb.setColon ..))) h
  | setDot p on pos => exact effects_finish (effects_pushIf p (.single (.paint fun hb => hb.setDot ..))) h
  | clear p => exact effects_finish (effects_pushIf p (.single (.paint fun _ => cellsNarrow_zero))) h
  | nop => exact effects_finish (effects_pushIf false .refl) h
  | flush => exact effects_finish (effects_pushIf true .refl) h
  | render frac base val =>
    cases hb : baseOf s.cfg base with
    | none =>
      rw [exec_render_of_none hb] at h
      exact effects_finish .refl h
    | some b =>
      rw [exec_render_of_some hb] at h
      exact effects_finish (effects_pushIf true (.single (.paint fun hn => hn.paintValue ..))) h
  | facadeBegin => exact effects_execBegin h
  | dispOn => exact effects_finish (effects_cmd1 (.inr (.inr (.inl (by decide)))) .refl) h
  | dispOff => exact effects_finish (effects_cmd1 (.inr (.inl rfl)) .refl) h
  | setBright level => exact effects_finish (effects_cmd1 (isDeviceWrite_brightnessByte level) .refl) h
  | setBlink rate => exact effects_finish (effects_cmd1 (isDeviceWrite_blinkByte rate) .refl) h
  | wrChar p code => exact effects_finish (effects_pushIf p (effects_charBody code s)) h

/-- A command taken from the port, legal or not: an illegal word only answers, as a NOP may. -/
theorem runCommand_effects {c : Command} {s t : State} (h : runCommand c s = .next t) : ∃ r, Effects r s t := by
  cases hd : decode c with
  | ok i =>
    rw [runCommand_of_ok hd] at h
    exact ⟨i.row, exec_effects h⟩
  | error e =>
    rw [runCommand_of_error hd] at h
    exact ⟨.nop, effects_finish .refl h⟩

/-- The invariant principle: what holds after a reset, does not speak of what the host presents and is kept by every
effect is kept by every step. -/
theorem step_keeps {P : State → Prop} (hhost : ∀ {u} h, P u → P (u.setHost h)) (hreset : ∀ u, P (resetBlock u))
    (heffect : ∀ {r u v}, Effect r u v → P u → P v) {s t : State} (hs : P s) (h : step s = .next t) : P t := by
  rcases hh : s.host with _ | ⟨c | _, rest⟩
  · rw [step_of_idle hh] at h
    cases h
    exact hs
  · rw [step_of_command hh] at h
    obtain ⟨r, hr⟩ := runCommand_effects h
    exact hr.keeps heffect (hhost rest hs)
  · rw [step_of_reset hh] at h
    cases h
    exact hreset _

end Sys2Proof.Machine
end

section
/-! The statements of spec/10_state.md. -/

namespace Sys2Proof.Proofs.StateRules

open Sys2Proof.Machine

/-! ### The device image and the trace -/

/-- A device image that lists nothing, or each of the addresses 0 to 15. -/
def Whole (m : Memory) : Prop := m = [] ∨ m.map Prod.fst = List.range 16

/-- Every write that begins with the header 0x00 has the 16 bytes of a snapshot after it. -/
def FullSnapshots (ws : List Transfer) : Prop := ∀ w ∈ ws, w.bytes.head? = some 0x00 → w.bytes.length = 17

theorem writeBytes_cons_of_lt {k a : Nat} (h : k < a) (o : Byte) (m : Memory) (vs : List Byte) :
    Memory.writeBytes ((k, o) :: m) a vs = (k, o) :: Memory.writeBytes m a vs := by
  induction vs generalizing m a with
  | nil => rfl
  | cons v vs ih =>
    simp only [Memory.writeBytes]
    rw [Memory.write, if_neg (by omega), if_neg (by omega), ih (by omega)]

/-- Bytes written over an image that lists nothing, or exactly the addresses written: the image is these bytes. -/
theorem writeBytes_eq_zip (vs : List Byte) (m : Memory) (a : Nat)
    (h : m = [] ∨ m.map Prod.fst = List.range' a vs.length) :
    Memory.writeBytes m a vs = (List.range' a vs.length).zip vs := by
  induction vs generalizing m a with
  | nil => simpa [Memory.writeBytes] using h
  | cons v vs ih =>
    obtain ⟨m', hw, hm'⟩ :
        ∃ m', Memory.write m a v = (a, v) :: m' ∧ (m' = [] ∨ m'.map Prod.fst = List.range' (a + 1) vs.length) := by
      rcases m with _ | ⟨⟨k, o⟩, m'⟩
      · exact ⟨[], rfl, .inl rfl⟩
      · simp only [List.length_cons, List.range'_succ, List.map_cons, List.cons.injEq, reduceCtorEq, false_or] at h
        obtain ⟨rfl, hm'⟩ := h
        exact ⟨m', by simp [Memory.write], .inr hm'⟩
    rw [Memory.writeBytes, hw, writeBytes_cons_of_lt (by omega), ih m' (a + 1) hm']
    rfl

/-- The image a trace with full snapshots tells is whole: no byte of an older snapshot can outlive a newer one. -/
theorem whole_knownImage {ws : List Transfer} (h : FullSnapshots ws) : Whole (knownImage ws) := by
  induction ws with
  | nil => exact .inl rfl
  | cons w older ih =>
    obtain ⟨hw, hrest⟩ := List.forall_mem_cons.1 h
    obtain ⟨dev, bytes, a⟩ := w
    rcases a with _ | _
    · rcases bytes with _ | ⟨r, data⟩
      · exact ih hrest
      · simp only [knownImage]
        split
        · subst r
          have hlen : data.length = 16 := by simpa using hw rfl
          right
          rw [List.map_fst_zip (by simp), hlen]
        · split
          · exact .inl rfl
          · exact ih hrest
    · exact .inl rfl

/-- One write more: what it leaves of the image the older writes tell is what the longer trace tells. -/
theorem deviceAfter_knownImage (cfg : Config) (w : Transfer) {older : List Transfer}
    (h : FullSnapshots (w :: older)) :
    deviceAfter cfg w.bytes w.answer (knownImage older) = knownImage (w :: older) := by
  obtain ⟨hw, hrest⟩ := List.forall_mem_cons.1 h
  obtain ⟨dev, bytes, a⟩ := w
  rcases a with _ | _
  · rcases bytes with _ | ⟨r, data⟩
    · rfl
    · simp only [deviceAfter, knownImage, Config.params_eq, Params.spec_regDisplay]
      by_cases hr : r = 0x00
      · subst r
        have hlen : data.length = 16 := by simpa using hw rfl
        have hwhole := whole_knownImage hrest
        rw [Whole, List.range_eq_range', ← hlen] at hwhole
        rw [if_pos rfl, if_pos rfl, writeBytes_eq_zip data _ 0 hwhole, List.range_eq_range']
      · rw [if_neg hr, if_neg hr]
        rfl
  · rfl

/-- The invariant of the device image: what the trace tells, of a trace whose snapshots are full. -/
def ImageFollowsTrace (s : State) : Prop := FullSnapshots s.trace ∧ ImageKnown s

theorem fullSnapshots_of_traceLegal {s : State} (h : TraceLegal s) : FullSnapshots s.trace :=
  fun w hw => (h w hw).2.length_of_head

theorem trace_reverse_memWrite (s : State) (bytes : List Byte) :
    (s.memWrite bytes).trace.reverse = ⟨s.cfg.devAddr, bytes, s.nextAnswer⟩ :: s.trace.reverse := by
  rw [State.memWrite_trace, List.reverse_append, List.reverse_singleton, List.singleton_append]

theorem ImageFollowsTrace.memWrite {s : State} (h : ImageFollowsTrace s) {bytes : List Byte}
    (hb : bytes.head? = some 0x00 → bytes.length = 17) : ImageFollowsTrace (s.memWrite bytes) := by
  obtain ⟨hfull, himage⟩ := h
  have hfull' : FullSnapshots (s.memWrite bytes).trace := by
    rw [State.memWrite_trace]
    exact List.forall_mem_append.2 ⟨hfull, List.forall_mem_singleton.2 hb⟩
  have hrev : FullSnapshots (s.memWrite bytes).trace.reverse := fun w hw => hfull' w (List.mem_reverse.1 hw)
  rw [trace_reverse_memWrite] at hrev
  refine ⟨hfull', ?_⟩
  rw [ImageKnown, trace_reverse_memWrite, State.memWrite_device, himage]
  exact deviceAfter_knownImage s.cfg _ hrev

theorem ImageFollowsTrace.effect {r : Row} {s t : State} (he : Effect r s t) (h : ImageFollowsTrace s) :
    ImageFollowsTrace t := by
  cases he with
  | sendByte hb => exact h.memWrite hb.length_of_head
  | sendSnapshot => exact h.memWrite fun _ => by simp [pushBytes, snapshot_length]
  | _ => exact h

/-- Settles O9: the image is carried with the fact that every snapshot of the trace has 16 bytes, so that each one
overwrites the whole of the image before it. -/
theorem stepKeepsDeviceImageAsTheTraceTells : Obligations.StepKeepsDeviceImageAsTheTraceTells := by
  rintro s t ⟨-, hlegal, himage⟩ h
  have ht : ImageFollowsTrace t :=
    step_keeps (fun _ hu => hu) (fun _ => ⟨List.forall_mem_nil _, rfl⟩) ImageFollowsTrace.effect
      ⟨fullSnapshots_of_traceLegal hlegal, himage⟩ h
  exact ht.2

/-! ### The other invariants -/

theorem cellsNarrow_effect {r : Row} {s t : State} (he : Effect r s t) (h : CellsNarrow s.buf) :
    CellsNarrow t.buf := by
  cases he with
  | paint hb => exact hb h
  | _ => exact h

/-- Settles O5: reset zeroes the cells, and no effect but a new buffer touches them. -/
theorem stepKeepsCellHighBytesZero : Obligations.StepKeepsCellHighBytesZero := fun _ _ hs h =>
  step_keeps (P := fun u => CellsNarrow u.buf) (fun _ hu => hu) (fun _ => cellsNarrow_zero) cellsNarrow_effect hs h

theorem cursorLegal_advanceCursor (cfg : Config) {k : BitVec 3} (h : CursorLegal k) :
    CursorLegal (advanceCursor cfg k) := by
  rw [advanceCursor_eq]
  rcases h with rfl | rfl | rfl | rfl | rfl <;> decide

theorem cursorLegal_effect {r : Row} {s t : State} (he : Effect r s t) (h : CursorLegal s.cursor) :
    CursorLegal t.cursor := by
  cases he with
  | moveCursor hr hk =>
    rcases hk with rfl | rfl
    · exact .inl rfl
    · exact cursorLegal_advanceCursor s.cfg h
  | _ => exact h

/-- Settles O6: the cursor is only ever zeroed or advanced. -/
theorem stepKeepsCursorReachable : Obligations.StepKeepsCursorReachable := fun _ _ hs h =>
  step_keeps (P := fun u => CursorLegal u.cursor) (fun _ hu => hu) (fun _ => .inl rfl) cursorLegal_effect hs h

theorem device_wf_effect {r : Row} {s t : State} (he : Effect r s t) (h : Memory.wf s.device = true) :
    Memory.wf t.device = true := by
  cases he with
  | sendByte => rw [State.memWrite_device]; exact wf_deviceAfter h ..
  | sendSnapshot => rw [State.memWrite_device]; exact wf_deviceAfter h ..
  | _ => exact h

/-- Settles O7: only a transport write changes the image, and it keeps the form. -/
theorem stepKeepsDeviceImageCanonical : Obligations.StepKeepsDeviceImageCanonical := fun _ _ hs h =>
  step_keeps (P := fun u => Memory.wf u.device = true) (fun _ hu => hu) (fun _ => Memory.wf_nil) device_wf_effect hs h

/-! ### The accepted snapshot -/

/-- What WR_CHAR does before its push touches only the buffer and the cursor. -/
theorem charBody_outside (code : Nat) (s : State) :
    (charBody code s).cfg = s.cfg ∧ (charBody code s).responses = s.responses ∧
      (charBody code s).nextAnswer = s.nextAnswer := by
  unfold charBody
  split
  · exact ⟨rfl, rfl, rfl⟩
  · split
    · exact ⟨rfl, rfl, rfl⟩
    · exact ⟨rfl, rfl, rfl⟩

/-- A command that pushes is a push from a state with the configuration, the responses and the coming answer of the one
it began in. -/
theorem exec_eq_finish_push {i : Instr} (h : pushes i = true) (s : State) :
    ∃ w u, exec i s = finish w (push u) ∧ u.cfg = s.cfg ∧ u.responses = s.responses ∧
      u.nextAnswer = s.nextAnswer := by
  cases i with
  | wrDigit p dot pos mask =>
    obtain rfl : p = true := h
    exact ⟨_, _, rfl, rfl, rfl, rfl⟩
  | wrGlyph p dot pos digit =>
    simp only [pushes, Bool.and_eq_true, decide_eq_true_eq] at h
    obtain ⟨rfl, hd⟩ := h
    exact ⟨_, _, exec_wrGlyph_of_lt true dot pos (by omega) s, rfl, rfl, rfl⟩
  | wrColon p on =>
    obtain rfl : p = true := h
    exact ⟨_, _, rfl, rfl, rfl, rfl⟩
  | setDot p on pos =>
    obtain rfl : p = true := h
    exact ⟨_, _, rfl, rfl, rfl, rfl⟩
  | clear p =>
    obtain rfl : p = true := h
    exact ⟨_, _, rfl, rfl, rfl, rfl⟩
  | flush => exact ⟨_, _, rfl, rfl, rfl, rfl⟩
  | render frac base val =>
    have hbase : IsBase base := by simpa [pushes] using h
    obtain ⟨b, hb⟩ := exists_baseOf_of_isBase s.cfg hbase
    exact ⟨_, _, exec_render_of_some hb frac val, rfl, rfl, rfl⟩
  | wrChar p code =>
    obtain rfl : p = true := h
    exact ⟨_, _, rfl, charBody_outside code s⟩
  | nop | facadeBegin | dispOn | dispOff | setBright | setBlink => cases h

/-- Settles O24: every pushing command ends in the one push whose accepted snapshot becomes the image. -/
theorem acceptedSnapshotIsTheDeviceImage : Obligations.AcceptedSnapshotIsTheDeviceImage := by
  intro i s hp hok
  obtain ⟨w, u, hexec, hcfg, hresp, hans⟩ := exec_eq_finish_push hp s
  obtain ⟨t, ht, hr, hbuf, himage⟩ := finish_push_accepted w u (hans.trans hok)
  rw [← hbuf, hcfg] at himage
  exact ⟨t, w, hexec.trans ht, hresp ▸ hr, himage⟩

/-! ### Who writes the control state -/

theorem effect_cursor {r : Row} (hr : r ≠ .wrChar) {s t : State} (he : Effect r s t) : t.cursor = s.cursor := by
  cases he with
  | moveCursor hr' => exact absurd hr' hr
  | _ => rfl

theorem effect_fstate {r : Row} (hr : r ≠ .facadeBegin) {s t : State} (he : Effect r s t) :
    t.fstate = s.fstate := by
  cases he with
  | activate hr' => exact absurd hr' hr
  | _ => rfl

theorem effect_fstate_or_active {r : Row} {s t : State} (he : Effect r s t) :
    t.fstate = s.fstate ∨ t.fstate = .active := by
  cases he with
  | activate => exact .inr rfl
  | _ => exact .inl rfl

theorem effect_cfg {r : Row} {s t : State} (he : Effect r s t) : t.cfg = s.cfg := by
  cases he <;> rfl

theorem effect_host {r : Row} {s t : State} (he : Effect r s t) : t.host = s.host := by
  cases he <;> rfl

theorem effects_fstate_or_active {r : Row} {s t : State} (h : Effects r s t) :
    t.fstate = s.fstate ∨ t.fstate = .active :=
  h.keeps (P := fun u => u.fstate = s.fstate ∨ u.fstate = .active)
    (fun he hu => (effect_fstate_or_active he).elim (fun heq => heq ▸ hu) .inr) (.inl rfl)

/-- Settles O54: of the effects a command is made of, only WR_CHAR's moves the cursor and only BEGIN's activates. -/
theorem controlStateHasOneWriterEach : Obligations.ControlStateHasOneWriterEach := by
  intro i s t h
  have he := exec_effects h
  exact ⟨fun hr => he.field_eq (effect_cursor hr), fun hr => he.field_eq (effect_fstate hr),
    effects_fstate_or_active he, he.field_eq effect_cfg, he.field_eq effect_host⟩

/-! ### Reset -/

theorem get_zero (p : Nat) : Buf.zero.get p = 0 := by
  rcases p with _ | _ | _ | _ | _ | p <;> rfl

/-- Settles O1: cells beyond the fifth read zero by themselves, and an image that lists nothing leaves the free value. -/
theorem resetLeavesBlankUninitializedState : Obligations.ResetLeavesBlankUninitializedState :=
  ⟨rfl, get_zero, rfl, rfl, fun _ => rfl, fun _ => rfl⟩

/-- Settles O2: the default table against the three constraints, entry by entry. -/
theorem resetConfigurationIsTheDefault : Obligations.ResetConfigurationIsTheDefault :=
  ⟨rfl, rfl, by decide⟩

/-- Settles O3: the step is `resetBlock`, whatever the state. -/
theorem resetEventRestartsTheBlock : Obligations.ResetEventRestartsTheBlock := fun _ _ h =>
  ⟨_, step_of_reset h, rfl, get_zero, rfl, rfl, rfl, fun _ => rfl, rfl, rfl, rfl⟩

/-- Settles O4: the cells and the cursor are zero, the trace and the image empty. -/
theorem resetMeetsTheInvariants : Obligations.ResetMeetsTheInvariants :=
  ⟨cellsNarrow_zero, .inl rfl, reset_device_wf, List.forall_mem_nil _, rfl⟩

/-! ### The step of a decoded command -/

/-- Settles O20: the port hands the decoded command to `exec`; taking off a presented command gives back the state. -/
theorem stepRunsTheDecodedInstruction : Obligations.StepRunsTheDecodedInstruction := by
  have hstep (s : State) (c : Command) (rest : List HostEvent) (i : Instr) (hh : s.host = .command c :: rest)
      (hd : decode c = .ok i) : step s = exec i (s.setHost rest) :=
    (step_of_command hh).trans (runCommand_of_ok hd _)
  refine ⟨hstep, fun s nbits w i hw => ?_⟩
  have hd : decode (tableCommand nbits w) = .ok i := by
    rw [decodeTableWord] at hw
    cases hc : decode (tableCommand nbits w) with
    | ok j => rw [hc] at hw; cases hw; rfl
    | error e => rw [hc] at hw; cases hw
  exact hstep (s.withFetchWord nbits w) _ s.host i rfl hd

end Sys2Proof.Proofs.StateRules
end

section
/-! SUPPORT. The snapshot byte by byte, how many transport writes one command issues, and the positions that name no
cell (spec/20_memory.md R50 to R59). -/

namespace Sys2Proof.Machine

/-! ### The snapshot, byte by byte -/

/-- Byte `2i` of the snapshot is the low byte of cell `i`. -/
theorem snapshot_getElem?_low (cfg : Config) (b : Buf) {i : Nat} (hi : i < 8) :
    (snapshot cfg b)[2 * i]? = some ((b.get i).extractLsb' 0 8) := by
  rw [snapshot, Config.params_eq, Params.spec_numSnapCells]
  interval_cases i <;> rfl

/-- Byte `2i + 1` of the snapshot is the high byte of cell `i`. -/
theorem snapshot_getElem?_high (cfg : Config) (b : Buf) {i : Nat} (hi : i < 8) :
    (snapshot cfg b)[2 * i + 1]? = some ((b.get i).extractLsb' 8 8) := by
  rw [snapshot, Config.params_eq, Params.spec_numSnapCells]
  interval_cases i <;> rfl

/-- The cells beyond the fifth read zero by themselves. -/
theorem Buf.ite_get_eq (b : Buf) (i : Nat) : (if i ≤ 4 then b.get i else 0) = b.get i := by
  split
  · rfl
  · exact (b.get_of_five_le (by omega)).symm

/-- The padding: both bytes of the cells 5, 6 and 7. -/
theorem snapshot_getElem?_padding (cfg : Config) (b : Buf) {k : Nat} (h10 : 10 ≤ k) (h16 : k < 16) :
    (snapshot cfg b)[k]? = some 0 := by
  rcases Nat.even_or_odd' k with ⟨i, rfl | rfl⟩
  · rw [snapshot_getElem?_low cfg b (by omega), b.get_of_five_le (by omega)]
    rfl
  · rw [snapshot_getElem?_high cfg b (by omega), b.get_of_five_le (by omega)]
    rfl

/-- A push of narrow cells is one of the listed writes (30 R103). -/
theorem isDeviceWrite_pushBytes (cfg : Config) {b : Buf} (h : CellsNarrow b) : IsDeviceWrite (pushBytes cfg b) := by
  obtain ⟨h0, h1, h2, h3, h4⟩ := h
  right; right; right; right
  refine ⟨b.dig0.extractLsb' 0 8, b.dig1.extractLsb' 0 8, b.dig2.extractLsb' 0 8, b.dig3.extractLsb' 0 8,
    b.colon.extractLsb' 0 8, ?_⟩
  simp [pushBytes, snapshot_eq, cellBytes, h0, h1, h2, h3, h4]

/-! ### How many writes a command issues -/

/-- From `s` to `t` the trace has grown by at most `n` writes, all to `DEV_ADDR`, each taking one answer; the address is
the same as before. -/
def SendsAtMost (n : Nat) (s t : State) : Prop :=
  t.cfg = s.cfg ∧ ∃ ws : List Transfer, t.trace = s.trace ++ ws ∧ (∀ w ∈ ws, w.dev = s.cfg.devAddr) ∧ ws.length ≤ n ∧
    t.answers = s.answers.drop ws.length ∧ t.free = s.free + ws.length

section
variable {n : Nat} {s u : State}

theorem SendsAtMost.of_silent (hcfg : u.cfg = s.cfg) (h : Silent s u) : SendsAtMost n s u := by
  obtain ⟨htrace, -, hanswers, hfree⟩ := h
  exact ⟨hcfg, [], by simpa using htrace, List.forall_mem_nil _, Nat.zero_le n, hanswers, hfree⟩

theorem SendsAtMost.refl : SendsAtMost n s s := .of_silent rfl ⟨rfl, rfl, rfl, rfl⟩

theorem SendsAtMost.setBuf (b : Buf) : SendsAtMost n s (s.setBuf b) := .of_silent rfl ⟨rfl, rfl, rfl, rfl⟩

theorem SendsAtMost.mono (h : SendsAtMost n s u) {m : Nat} (hnm : n ≤ m) : SendsAtMost m s u := by
  obtain ⟨hcfg, ws, htrace, hdev, hlen, hinputs⟩ := h
  exact ⟨hcfg, ws, htrace, hdev, hlen.trans hnm, hinputs⟩

theorem SendsAtMost.memWrite (h : SendsAtMost n s u) (bytes : List Byte) :
    SendsAtMost (n + 1) s (u.memWrite bytes) := by
  obtain ⟨hcfg, ws, htrace, hdev, hlen, hanswers, hfree⟩ := h
  refine ⟨hcfg, ws ++ [⟨u.cfg.devAddr, bytes, u.nextAnswer⟩], ?_, ?_, ?_, ?_, ?_⟩
  · rw [State.memWrite_trace, htrace, List.append_assoc]
  · exact List.forall_mem_append.2 ⟨hdev, List.forall_mem_singleton.2 (by rw [hcfg])⟩
  · simpa using hlen
  · rw [State.memWrite_answers, hanswers, List.tail_drop, List.length_append, List.length_singleton]
  · rw [State.memWrite_free, hfree, List.length_append, List.length_singleton, Nat.add_assoc]

theorem SendsAtMost.pushIf (p : Bool) (h : SendsAtMost n s u) : SendsAtMost (n + 1) s (pushIf p u).state := by
  cases p
  · exact h.mono (Nat.le_succ n)
  · rw [pushIf_true, push_eq]
    exact h.memWrite _

theorem SendsAtMost.cmd1 (b : Byte) (h : SendsAtMost n s u) : SendsAtMost (n + 1) s (cmd1 b u).state := by
  rw [cmd1_eq]
  exact h.memWrite _

theorem SendsAtMost.andThen {m : Nat} (hnm : n ≤ m) {q : Progress} {k : State → Progress}
    (hq : SendsAtMost n s q.state) (hk : ∀ {u}, SendsAtMost n s u → SendsAtMost m s (k u).state) :
    SendsAtMost m s (andThen q k).state := by
  by_cases h : q.status = .ok
  · rw [andThen_of_ok h]
    exact hk hq
  · rw [andThen_of_raised h]
    exact hq.mono hnm

theorem SendsAtMost.finish {w : Bool} {q : Progress} (hq : SendsAtMost n s q.state)
    (h : finish w q = .next u) : SendsAtMost n s u := by
  rw [finish_eq] at h
  cases h
  exact hq

end

theorem silent_charBody (code : Nat) (s : State) : Silent s (charBody code s) := by
  unfold charBody
  split
  · exact ⟨rfl, rfl, rfl, rfl⟩
  · split
    · exact ⟨rfl, rfl, rfl, rfl⟩
    · exact ⟨rfl, rfl, rfl, rfl⟩

theorem sendsAtMost_execBegin {s t : State} (h : execBegin s = .next t) : SendsAtMost 3 s t :=
  .finish
    (.andThen (n := 1) (by decide) (.cmd1 _ .refl) fun h₁ =>
      .andThen (n := 2) (by decide) (.cmd1 _ h₁) fun h₂ =>
        .andThen (n := 3) (by decide) (.cmd1 _ h₂) fun h₃ => h₃) h

/-- Every command but BEGIN issues one write at the most. -/
theorem exec_sendsAtMost_one {i : Instr} (hi : i ≠ .facadeBegin) {s t : State} (h : exec i s = .next t) :
    SendsAtMost 1 s t := by
  cases i with
  | wrDigit p dot pos mask => exact .finish (.pushIf p (.setBuf _)) h
  | wrGlyph p dot pos digit =>
    by_cases hd : digit < 16
    · rw [exec_wrGlyph_of_lt _ _ _ hd] at h
      exact .finish (.pushIf p (.setBuf _)) h
    · rw [exec_wrGlyph_of_not_lt _ _ _ hd] at h
      exact .finish .refl h
  | wrColon p on => exact .finish (.pushIf p (.setBuf _)) h
  | setDot p on pos => exact .finish (.pushIf p (.setBuf _)) h
  | clear p => exact .finish (.pushIf p (.setBuf _)) h
  | nop => exact .finish (.pushIf false .refl) h
  | flush => exact .finish (.pushIf true .refl) h
  | render frac base val =>
    cases hb : baseOf s.cfg base with
    | none =>
      rw [exec_render_of_none hb] at h
      exact .finish .refl h
    | some b =>
      rw [exec_render_of_some hb] at h
      exact .finish (.pushIf true (.setBuf _)) h
  | facadeBegin => exact absurd rfl hi
  | dispOn => exact .finish (.cmd1 _ .refl) h
  | dispOff => exact .finish (.cmd1 _ .refl) h
  | setBright level => exact .finish (.cmd1 _ .refl) h
  | setBlink rate => exact .finish (.cmd1 _ .refl) h
  | wrChar p code =>
    have hcfg := (Proofs.StateRules.charBody_outside code s).1
    exact .finish (.pushIf p (.of_silent hcfg (silent_charBody code s))) h

/-! ### Positions that name no cell -/

theorem State.cellWrite_of_five_le (s : State) {p : Nat} (hp : 5 ≤ p) (v : CellWord) :
    s.cellWrite (p : Int) v = s := by
  rw [State.cellWrite, Buf.cellWrite, Config.params_eq, Params.spec_numCells, if_neg (by omega)]
  rfl

theorem Buf.setDot_of_five_le (cfg : Config) (b : Buf) (on : Bool) {p : Nat} (hp : 5 ≤ p) : b.setDot cfg on p = b := by
  rw [Buf.setDot, Config.params_eq, Params.spec_numDigits, if_neg (by omega), if_neg (by omega)]

/-- A digit character is written at the cursor, which then advances. -/
theorem charBody_digitChar (c : Fin 10) (s : State) :
    charBody (0x30 + c.val) s =
      (s.cellWrite (s.cursor.toNat : Int) (cellOf s.cfg (glyph s.cfg.glyph (charDigit (0x30 + c.val))) false)).setCursor
        (advanceCursor s.cfg s.cursor) := by
  have hnewline : ¬ isNewline (0x30 + c.val) = true := by revert c; decide
  have hdigit : isDigitChar (0x30 + c.val) = true := by revert c; decide
  rw [charBody, if_neg hnewline, if_pos hdigit]

theorem charWritten_digitChar (c : Fin 10) : charWritten (0x30 + c.val) = true := by
  revert c
  decide

/-- The cursor at `CURSOR_MAX` names no cell and stays where it is. -/
theorem charBody_digitChar_of_cursor_five (c : Fin 10) {s : State} (h : s.cursor = 5) :
    charBody (0x30 + c.val) s = s := by
  have hstay : advanceCursor s.cfg s.cursor = s.cursor := by
    rw [h, advanceCursor_eq]
    rfl
  rw [charBody_digitChar, hstay, State.cellWrite_of_five_le s (by rw [h]; decide)]
  rfl

end Sys2Proof.Machine
end

section
/-! The statements of spec/20_memory.md. -/

namespace Sys2Proof.Proofs.MemoryRules

open Sys2Proof.Machine

/-! ### What is sent -/

/-- The invariant of the transport: narrow cells, so that the next push is listed, and a listed trace so far. -/
def WritesListed (s : State) : Prop := CellsNarrow s.buf ∧ TraceLegal s

theorem traceLegal_memWrite {s : State} (h : TraceLegal s) {bytes : List Byte} (hb : IsDeviceWrite bytes) :
    TraceLegal (s.memWrite bytes) := by
  intro w hw
  rw [State.memWrite_trace, List.mem_append, List.mem_singleton] at hw
  rcases hw with hw | rfl
  · exact h w hw
  · exact ⟨rfl, hb⟩

theorem WritesListed.effect {r : Row} {s t : State} (he : Effect r s t) (h : WritesListed s) : WritesListed t := by
  obtain ⟨hcells, htrace⟩ := h
  refine ⟨StateRules.cellsNarrow_effect he hcells, ?_⟩
  cases he with
  | sendByte hb => exact traceLegal_memWrite htrace hb
  | sendSnapshot => exact traceLegal_memWrite htrace (isDeviceWrite_pushBytes s.cfg hcells)
  | _ => exact htrace

/-- Settles O8: a command byte is listed as it stands, a snapshot because the cells it serialises are narrow. -/
theorem stepKeepsTransportWritesListed : Obligations.StepKeepsTransportWritesListed := fun _ _ hs h =>
  step_keeps (P := WritesListed) (fun _ hu => hu) (fun _ => ⟨cellsNarrow_zero, List.forall_mem_nil _⟩)
    WritesListed.effect hs h

/-- Settles O57: BEGIN is the one command with more than one write. -/
theorem commandsOnlyAppendToTheTrace : Obligations.CommandsOnlyAppendToTheTrace := by
  intro i s t h
  have hsends : SendsAtMost 3 s t := by
    by_cases hi : i = .facadeBegin
    · subst hi
      exact sendsAtMost_execBegin h
    · exact (exec_sendsAtMost_one hi h).mono (by decide)
  exact hsends.2

/-! ### The snapshot -/

/-- Settles O22: cell `i` stands at bytes `2i` and `2i + 1`, and cells 5 to 7 read zero. -/
theorem snapshotIsLittleEndianPadded : Obligations.SnapshotIsLittleEndianPadded := by
  refine fun cfg b => ⟨snapshot_length cfg b, fun i hi => ?_, fun hb i hi => ?_,
    fun _ => snapshot_getElem?_padding cfg b⟩
  · rw [Buf.ite_get_eq]
    exact ⟨snapshot_getElem?_low cfg b hi, snapshot_getElem?_high cfg b hi⟩
  · rw [snapshot_getElem?_high cfg b hi, cellsNarrow_iff_get.1 hb i]

/-! ### Positions that name no cell -/

/-- Settles O33: with nothing written, each of the four is its push from the state it began in. -/
theorem invalidPositionIsSilent : Obligations.InvalidPositionIsSilent := by
  intro p dot on pos mask digit c s hpos
  refine ⟨?_, ?_, ?_, fun hcursor => ?_⟩
  · simp only [exec, execWrDigit, s.cellWrite_of_five_le hpos]
    exact finish_pushIf false p s
  · rw [exec_wrGlyph_of_lt p dot pos digit.isLt, s.cellWrite_of_five_le hpos]
    exact finish_pushIf false p s
  · simp only [exec, execSetDot, s.buf.setDot_of_five_le s.cfg on hpos]
    exact finish_pushIf false p s
  · simp only [exec, execWrChar, charWritten_digitChar, charBody_digitChar_of_cursor_five c hcursor]
    exact finish_pushIf true p s

end Sys2Proof.Proofs.MemoryRules
end

section
/-! SUPPORT. The decoder through its fields (spec/30_encoding.md R81 to R83): a word from its fields, a row's match and
mask as conditions on the fields, and what the decoder gives for a word that selects a row or none. -/

namespace Sys2Proof

open Machine

/-! ### A word and its fields -/

/-- A word whose reserved bits are zero is packed from its own fields. -/
theorem packWord_fields {w : CmdWord} (hhigh : w.extractLsb' 25 2 = 0) (hlow : w.extractLsb' 0 8 = 0) :
    packWord (opField w) (pField w) (fField w) (aField w) (bField w) = w := by
  have hbit {start len : Nat} (h : w.extractLsb' start len = 0) (j : Nat) (hj : j < len) :
      w.getLsbD (start + j) = false := by
    simpa [hj] using congrArg (·.getLsbD j) h
  apply BitVec.eq_of_getLsbD_eq
  intro i hi
  rw [getLsbD_packWord]
  simp only [opField, pField, fField, aField, bField, BitVec.getLsbD_extractLsb']
  split_ifs with h8 h16 h24 hf h27 hp
  · simpa using (hbit hlow i h8).symm
  · simp [show i - 8 < 8 by omega, show 8 + (i - 8) = i by omega]
  · simp [show i - 16 < 8 by omega, show 16 + (i - 16) = i by omega]
  · rw [hf]
  · have := hbit hhigh (i - 25) (by omega)
    rwa [show 25 + (i - 25) = i by omega, eq_comm] at this
  · rw [hp]
  · simp [show i - 28 < 4 by omega, show 28 + (i - 28) = i by omega]

theorem opField_and (w m : CmdWord) : opField (w &&& m) = opField w &&& opField m := BitVec.extractLsb'_and
theorem pField_and (w m : CmdWord) : pField (w &&& m) = (pField w && pField m) := BitVec.getLsbD_and
theorem fField_and (w m : CmdWord) : fField (w &&& m) = (fField w && fField m) := BitVec.getLsbD_and
theorem aField_and (w m : CmdWord) : aField (w &&& m) = aField w &&& aField m := BitVec.extractLsb'_and
theorem bField_and (w m : CmdWord) : bField (w &&& m) = bField w &&& bField m := BitVec.extractLsb'_and

@[simp] theorem field8_toNat (a : BitVec 8) : field8 a.toNat = a := by
  simp [field8]

theorem fitsField_toNat (a : BitVec 8) : fitsField a.toNat = true := decide_eq_true a.isLt

/-! ### A row's match and mask, field by field -/

/-- What 30 R82 asks of a word of row `r`: its opcode, reserved bits zero, `P` as the row fixes it (NOP and FLUSH differ
in `P` alone), and zero in every other field the row's mask covers. -/
structure Row.FieldsMatch (r : Row) (w : CmdWord) : Prop where
  op : opField w = opField r.pattern
  high : w.extractLsb' 25 2 = 0
  low : w.extractLsb' 0 8 = 0
  p : pField r.mask = true → pField w = pField r.pattern
  f : fField r.mask = true → fField w = false
  a : aField r.mask ≠ 0 → aField w = 0
  b : bField r.mask ≠ 0 → bField w = 0

/-- The table's masks cover the opcode and the reserved bits, and each operand field whole or not at all; the matches
ask for zero outside the opcode and `P`. -/
theorem row_table_fields (r : Row) :
    (opField r.mask = BitVec.allOnes 4 ∧ r.mask.extractLsb' 25 2 = BitVec.allOnes 2 ∧
      r.mask.extractLsb' 0 8 = BitVec.allOnes 8 ∧ (aField r.mask = 0 ∨ aField r.mask = BitVec.allOnes 8) ∧
      (bField r.mask = 0 ∨ bField r.mask = BitVec.allOnes 8)) ∧
    r.pattern.extractLsb' 25 2 = 0 ∧ r.pattern.extractLsb' 0 8 = 0 ∧
      (pField r.mask = false → pField r.pattern = false) ∧ fField r.pattern = false ∧ aField r.pattern = 0 ∧
      bField r.pattern = 0 := by
  cases r <;> decide

/-- An 8-bit field under a mask of all zeros or all ones is zero exactly when it is unmasked or zero itself. -/
theorem and_eq_zero_iff_of_mask {x m : BitVec 8} (hm : m = 0 ∨ m = BitVec.allOnes 8) :
    x &&& m = 0 ↔ (m ≠ 0 → x = 0) := by
  rcases hm with rfl | rfl
  · simp
  · rw [BitVec.and_allOnes]
    exact ⟨fun h _ => h, fun h => h (by decide)⟩

/-- A row selects a word exactly when the word's fields match the row. -/
theorem selects_iff_fieldsMatch (r : Row) (w : CmdWord) : r.selects w = true ↔ r.FieldsMatch w := by
  obtain ⟨⟨mop, mhigh, mlow, ma, mb⟩, zhigh, zlow, zp, zf, za, zb⟩ := row_table_fields r
  have hhigh : (w &&& r.mask).extractLsb' 25 2 = w.extractLsb' 25 2 := by
    rw [BitVec.extractLsb'_and, mhigh, BitVec.and_allOnes]
  have hlow : (w &&& r.mask).extractLsb' 0 8 = w.extractLsb' 0 8 := by
    rw [BitVec.extractLsb'_and, mlow, BitVec.and_allOnes]
  have hop : opField (w &&& r.mask) = opField w := by rw [opField_and, mop, BitVec.and_allOnes]
  have ha : aField (w &&& r.mask) = 0 ↔ (aField r.mask ≠ 0 → aField w = 0) := by
    rw [aField_and, and_eq_zero_iff_of_mask ma]
  have hb : bField (w &&& r.mask) = 0 ↔ (bField r.mask ≠ 0 → bField w = 0) := by
    rw [bField_and, and_eq_zero_iff_of_mask mb]
  rw [Row.selects, beq_iff_eq]
  constructor
  · intro h
    rw [h] at hhigh hlow hop ha hb
    refine ⟨hop.symm, hhigh ▸ zhigh, hlow ▸ zlow, fun hm => ?_, fun hm => ?_, ha.1 za, hb.1 zb⟩
    · rw [← h, pField_and, hm, Bool.and_true]
    · rw [← zf, ← h, fField_and, hm, Bool.and_true]
  · intro h
    have hp : pField (w &&& r.mask) = pField r.pattern := by
      rw [pField_and]
      cases hm : pField r.mask with
      | false => rw [zp hm, Bool.and_false]
      | true => rw [h.p hm, Bool.and_true]
    have hf : fField (w &&& r.mask) = fField r.pattern := by
      rw [fField_and, zf]
      cases hm : fField r.mask with
      | false => rw [Bool.and_false]
      | true => rw [h.f hm, Bool.and_true]
    rw [← packWord_fields (hhigh.trans h.high) (hlow.trans h.low), ← packWord_fields zhigh zlow, hop, h.op, hp, hf,
      ha.2 h.a, za, hb.2 h.b, zb]

/-! ### The decoder by the row a word selects -/

theorem mem_rows (r : Row) : r ∈ rows := by
  cases r <;> decide

/-- The (mask, match) pairs of two rows are disjoint: they differ in a match bit that both masks cover. -/
theorem row_eq_of_patterns_agree (r r' : Row) (h : r.pattern &&& r'.mask = r'.pattern &&& r.mask) : r = r' := by
  have hpairs : ∀ r ∈ rows, ∀ r' ∈ rows, r.pattern &&& r'.mask = r'.pattern &&& r.mask → r = r' := by decide
  exact hpairs r (mem_rows r) r' (mem_rows r') h

theorem row_eq_of_selects {w : CmdWord} {r r' : Row} (h : r.selects w = true) (h' : r'.selects w = true) : r = r' := by
  rw [Row.selects, beq_iff_eq] at h h'
  apply row_eq_of_patterns_agree
  calc r.pattern &&& r'.mask = w &&& r.mask &&& r'.mask := by rw [h]
    _ = w &&& r'.mask &&& r.mask := by rw [BitVec.and_assoc, BitVec.and_comm r.mask, BitVec.and_assoc]
    _ = r'.pattern &&& r.mask := by rw [h']

theorem decode_of_selects {c : Command} {r : Row} (h : r.selects c.cmd = true) : decode c = .ok (r.operands c) := by
  cases hfind : rows.find? (fun r => r.selects c.cmd) with
  | none => exact absurd h (List.find?_eq_none.1 hfind r (mem_rows r))
  | some r' =>
    have hr' : r'.selects c.cmd = true := List.find?_some (p := fun r => Row.selects r c.cmd) hfind
    rw [decode, hfind, row_eq_of_selects hr' h]

theorem decode_of_selects_none {c : Command} (h : ∀ r : Row, ¬ r.selects c.cmd = true) :
    decode c = .error (illegalReason c.cmd) := by
  rw [decode, List.find?_eq_none.2 fun r _ => h r]

theorem decode_eq_ok_iff {c : Command} {i : Instr} :
    decode c = .ok i ↔ ∃ r : Row, r.selects c.cmd = true ∧ r.operands c = i := by
  constructor
  · intro h
    by_cases hsel : ∃ r : Row, r.selects c.cmd = true
    · obtain ⟨r, hr⟩ := hsel
      rw [decode_of_selects hr] at h
      exact ⟨r, hr, Except.ok.inj h⟩
    · rw [decode_of_selects_none (not_exists.1 hsel)] at h
      cases h
  · rintro ⟨r, hr, rfl⟩
    exact decode_of_selects hr

theorem decode_eq_error_iff {c : Command} :
    (∃ e, decode c = .error e) ↔ ¬ ∃ r : Row, r.selects c.cmd = true := by
  constructor
  · rintro ⟨e, he⟩ ⟨r, hr⟩
    rw [decode_of_selects hr] at he
    cases he
  · exact fun h => ⟨_, decode_of_selects_none (not_exists.1 h)⟩

/-! ### Encoding a decoded instruction, decoding an encoded one -/

/-- The encoded word selects the instruction's own row (30 R83). -/
theorem selects_encodeWord (i : Instr) : i.row.selects (encodeWord i) = true := by
  cases i with
  | wrDigit p dot pos mask => exact Laws.EncodedWordSelectsRow.wrDigit p dot pos mask
  | wrGlyph p dot pos digit => exact Laws.EncodedWordSelectsRow.wrGlyph p dot pos digit
  | wrColon p on => exact Laws.EncodedWordSelectsRow.wrColon p on
  | setDot p on pos => exact Laws.EncodedWordSelectsRow.setDot p on pos
  | clear p => exact Laws.EncodedWordSelectsRow.clear p
  | nop => exact Laws.EncodedWordSelectsRow.nop
  | flush => exact Laws.EncodedWordSelectsRow.flush
  | render frac base val => exact Laws.EncodedWordSelectsRow.render frac base val
  | facadeBegin => exact Laws.EncodedWordSelectsRow.facadeBegin
  | dispOn => exact Laws.EncodedWordSelectsRow.dispOn
  | dispOff => exact Laws.EncodedWordSelectsRow.dispOff
  | setBright level => exact Laws.EncodedWordSelectsRow.setBright level
  | setBlink rate => exact Laws.EncodedWordSelectsRow.setBlink rate
  | wrChar p code => exact Laws.EncodedWordSelectsRow.wrChar p code

/-- The row's operands, read back from the encoded word: a number that fits its field comes back as it was. -/
theorem operands_encode {i : Instr} (h : i.WellFormed) : i.row.operands (encode i) = i := by
  cases i with
  | wrDigit p dot pos mask => simp [Instr.row, Row.operands, encode, encodeWord, toNat_field8 h]
  | wrGlyph p dot pos digit =>
    obtain ⟨hpos, hdigit⟩ := Bool.and_eq_true_iff.1 h
    simp [Instr.row, Row.operands, encode, encodeWord, toNat_field8 hpos, toNat_field8 hdigit]
  | wrColon p on => simp [Instr.row, Row.operands, encode, encodeWord]
  | setDot p on pos => simp [Instr.row, Row.operands, encode, encodeWord, toNat_field8 h]
  | clear p => simp [Instr.row, Row.operands, encode, encodeWord]
  | nop => rfl
  | flush => rfl
  | render frac base val =>
    obtain ⟨hfrac, hbase⟩ := Bool.and_eq_true_iff.1 h
    simp [Instr.row, Row.operands, encode, encodeWord, encodeVal, toNat_field8 hfrac, toNat_field8 hbase]
  | facadeBegin => rfl
  | dispOn => rfl
  | dispOff => rfl
  | setBright level => simp [Instr.row, Row.operands, encode, encodeWord, toNat_field8 h]
  | setBlink rate => simp [Instr.row, Row.operands, encode, encodeWord, toNat_field8 h]
  | wrChar p code => simp [Instr.row, Row.operands, encode, encodeWord, toNat_field8 h]

/-- An operand read from a field fits it. -/
theorem wellFormed_operands (r : Row) (c : Command) : (r.operands c).WellFormed := by
  cases r <;> simp [Instr.WellFormed, Row.operands, Instr.wellFormed, fitsFrac_eq, fitsField_toNat]

/-- A row's operands encode to the word they were read from: what the encoder does not take from an operand is the
row's opcode, its fixed `P` or zero. -/
theorem encodeWord_operands {r : Row} {c : Command} (h : r.selects c.cmd = true) :
    encodeWord (r.operands c) = c.cmd := by
  obtain ⟨hop, hhigh, hlow, hp, hf, ha, hb⟩ := (selects_iff_fieldsMatch r c.cmd).1 h
  rw [← packWord_fields hhigh hlow, hop]
  cases r with
  | wrDigit => rw [Row.operands, encodeWord, field8_toNat]; rfl
  | wrGlyph => rw [Row.operands, encodeWord, field8_toNat, field8_toNat]; rfl
  | wrColon => rw [ha (by decide), hb (by decide)]; rfl
  | setDot => rw [hb (by decide), Row.operands, encodeWord, field8_toNat]; rfl
  | clear => rw [hf rfl, ha (by decide), hb (by decide)]; rfl
  | nop => rw [hp rfl, hf rfl, ha (by decide), hb (by decide)]; rfl
  | flush => rw [hp rfl, hf rfl, ha (by decide), hb (by decide)]; rfl
  | render => rw [hp rfl, hf rfl, Row.operands, encodeWord, field8_toNat, field8_toNat]; rfl
  | facadeBegin => rw [hp rfl, hf rfl, ha (by decide), hb (by decide)]; rfl
  | dispOn => rw [hp rfl, hf rfl, ha (by decide), hb (by decide)]; rfl
  | dispOff => rw [hp rfl, hf rfl, ha (by decide), hb (by decide)]; rfl
  | setBright => rw [hp rfl, hf rfl, hb (by decide), Row.operands, encodeWord, field8_toNat]; rfl
  | setBlink => rw [hp rfl, hf rfl, hb (by decide), Row.operands, encodeWord, field8_toNat]; rfl
  | wrChar => rw [hf rfl, hb (by decide), Row.operands, encodeWord, field8_toNat]; rfl

/-- Only RENDER's operands are read from the `val` lines. -/
theorem operands_val_irrelevant {r : Row} (hr : r ≠ .render) (w : CmdWord) (v v' : ValWord) :
    r.operands ⟨w, v⟩ = r.operands ⟨w, v'⟩ := by
  cases r with
  | render => exact absurd rfl hr
  | _ => rfl

/-! ### Which words select a row -/

/-- Every opcode that is not reserved has a row, and `P` chooses between NOP and FLUSH. -/
theorem exists_row_of_opcode (op : BitVec 4) (p : Bool) (h0 : op ≠ 0x0) (hE : op ≠ 0xE) (hF : op ≠ 0xF) :
    ∃ r ∈ rows, opField r.pattern = op ∧ (op = 0x6 → pField r.pattern = p) := by
  revert op p
  decide

theorem opcode_not_reserved (r : Row) :
    opField r.pattern ≠ 0x0 ∧ opField r.pattern ≠ 0xE ∧ opField r.pattern ≠ 0xF := by
  cases r <;> decide

/-- The fields 30 R82 marks 0 for an opcode are those the masks of its rows cover; `P` is fixed to 1 for FLUSH alone. -/
theorem unused_fields_of_row (r : Row) :
    (opField r.pattern ∈ [0x7, 0x8, 0x9, 0xA, 0xB, 0xC] ↔ pField r.mask = true ∧ opField r.pattern ≠ 0x6) ∧
    (opField r.pattern ∈ [0x5, 0x6, 0x7, 0x8, 0x9, 0xA, 0xB, 0xC, 0xD] ↔ fField r.mask = true) ∧
    (opField r.pattern ∈ [0x3, 0x5, 0x6, 0x8, 0x9, 0xA] ↔ aField r.mask ≠ 0) ∧
    (opField r.pattern ∈ [0x3, 0x4, 0x5, 0x6, 0x8, 0x9, 0xA, 0xB, 0xC, 0xD] ↔ bField r.mask ≠ 0) ∧
    (opField r.pattern ≠ 0x6 → pField r.pattern = false) := by
  cases r <;> decide

/-- A word with a row's opcode, and its `P` where the opcode has two rows, matches the row unless a reserved bit or an
unused field is set. -/
theorem fieldsMatch_iff_of_opcode {r : Row} {w : CmdWord} (hop : opField w = opField r.pattern)
    (hp6 : opField w = 0x6 → pField r.pattern = pField w) :
    r.FieldsMatch w ↔ w.extractLsb' 25 2 = 0 ∧ w.extractLsb' 0 8 = 0 ∧ ¬ unusedFieldSet w := by
  obtain ⟨up, uf, ua, ub, hpat⟩ := unused_fields_of_row r
  have hp : (pField r.mask = true → pField w = pField r.pattern) ↔
      ¬ (pField w = true ∧ pField r.mask = true ∧ opField r.pattern ≠ 0x6) := by
    by_cases h6 : opField r.pattern = 0x6
    · simp [h6, hp6 (hop.trans h6)]
    · rw [hpat h6, Bool.eq_false_iff]
      exact ⟨fun h ⟨hw, hm, _⟩ => h hm hw, fun h hm hw => h ⟨hw, hm, h6⟩⟩
  rw [unusedFieldSet, hop, up, uf, ua, ub]
  constructor
  · rintro ⟨-, hhigh, hlow, mp, mf, ma, mb⟩
    refine ⟨hhigh, hlow, ?_⟩
    rintro (h | ⟨h, hm⟩ | ⟨h, hm⟩ | ⟨h, hm⟩)
    · exact hp.1 mp h
    · exact Bool.false_ne_true ((mf hm).symm.trans h)
    · exact h (ma hm)
    · exact h (mb hm)
  · rintro ⟨hhigh, hlow, hunused⟩
    simp only [not_or] at hunused
    obtain ⟨np, nf, na, nb⟩ := hunused
    exact ⟨hop, hhigh, hlow, hp.2 np, fun hm => Bool.eq_false_iff.2 fun h => nf ⟨h, hm⟩,
      fun hm => by_contra fun h => na ⟨h, hm⟩, fun hm => by_contra fun h => nb ⟨h, hm⟩⟩

/-- The words that select a row (30 R82, R89). -/
theorem exists_selects_iff (w : CmdWord) :
    (∃ r : Row, r.selects w = true) ↔
      (opField w ≠ 0x0 ∧ opField w ≠ 0xE ∧ opField w ≠ 0xF) ∧
        w.extractLsb' 25 2 = 0 ∧ w.extractLsb' 0 8 = 0 ∧ ¬ unusedFieldSet w := by
  simp only [selects_iff_fieldsMatch]
  constructor
  · rintro ⟨r, h⟩
    refine ⟨h.op ▸ opcode_not_reserved r, (fieldsMatch_iff_of_opcode h.op fun h6 => ?_).1 h⟩
    have hmask : opField r.pattern = 0x6 → pField r.mask = true := by cases r <;> decide
    exact (h.p (hmask (h.op ▸ h6))).symm
  · rintro ⟨⟨h0, hE, hF⟩, h⟩
    obtain ⟨r, -, hop, hp6⟩ := exists_row_of_opcode (opField w) (pField w) h0 hE hF
    exact ⟨r, (fieldsMatch_iff_of_opcode hop.symm hp6).2 h⟩

end Sys2Proof
end

section
/-! The statements of spec/30_encoding.md. -/

namespace Sys2Proof.Proofs.EncodingRules

open Sys2Proof.Machine

/-! ### The decoder and the encoder -/

/-- Settles O13: the encoded word selects the instruction's own row, and no other row matches it. -/
theorem decodeOfEncodeIsTheInstruction : Obligations.DecodeOfEncodeIsTheInstruction := fun i hi =>
  decode_eq_ok_iff.2 ⟨i.row, selects_encodeWord i, operands_encode hi⟩

/-- Settles O14: the word selects a row, whose operands encode to the word. -/
theorem encodeOfDecodeIsTheWord : Obligations.EncodeOfDecodeIsTheWord := by
  intro c i hi
  obtain ⟨r, hr, rfl⟩ := decode_eq_ok_iff.1 hi
  refine ⟨wellFormed_operands r c, encodeWord_operands hr, fun hrow => ?_⟩
  cases r with
  | render => rfl
  | _ => cases hrow

/-- Settles O15: two rows that match one word agree wherever both masks look. -/
theorem atMostOneRowMatches : Obligations.AtMostOneRowMatches := fun _ _ _ => row_eq_of_selects

/-- Settles O16: the words that select no row. -/
theorem illegalWordsAreTheReservedOnes : Obligations.IllegalWordsAreTheReservedOnes := by
  intro c
  rw [decode_eq_error_iff, exists_selects_iff]
  tauto

/-- Settles O18: a word of another opcode selects a row other than RENDER, or none. -/
theorem onlyRenderReadsVal : Obligations.OnlyRenderReadsVal := by
  intro w v v' hop
  by_cases h : ∃ r : Row, r.selects w = true
  · obtain ⟨r, hr⟩ := h
    have hrender : r ≠ .render := by
      rintro rfl
      exact hop ((selects_iff_fieldsMatch _ w).1 hr).op
    rw [decode_of_selects (c := ⟨w, v⟩) hr, decode_of_selects (c := ⟨w, v'⟩) hr, operands_val_irrelevant hrender w v v']
  · rw [decode_of_selects_none (c := ⟨w, v⟩) (not_exists.1 h), decode_of_selects_none (c := ⟨w, v'⟩) (not_exists.1 h)]

/-- Settles O19: one word of each row, decoded. -/
theorem specWordsDecodeToTheirCommands : Obligations.SpecWordsDecodeToTheirCommands := by
  refine ⟨?_, ?_, ?_, ?_, ?_, ?_, ?_, ?_, ?_, ?_, ?_, ?_, ?_, ?_⟩ <;> decide

/-! ### The response -/

/-- Settles O12: the response lines of either `written` bit and each of the five statuses. -/
theorem responseBitsFollowTheStatusTable : Obligations.ResponseBitsFollowTheStatusTable := by
  refine ⟨by decide, by decide, by decide, by decide, by decide, ?_⟩
  rintro ⟨written, status⟩
  cases written <;> cases status <;> decide

/-! ### Commands without their push -/

/-- A command that has handed nothing to the transport when it ends has handed it nothing. -/
theorem finish_silent {s : State} {q : Progress} (h : Silent s q.state) (w : Bool) :
    ∃ t, finish w q = .next t ∧ Silent s t := ⟨_, finish_eq w q, h⟩

/-- Settles O58: the work of each of these on the buffer or the cursor is silent, and with `P` clear nothing follows. -/
theorem withoutPushNothingIsSent : Obligations.WithoutPushNothingIsSent := by
  intro dot on pos digit code mask s i hi
  simp only [List.mem_cons, List.not_mem_nil, or_false] at hi
  rcases hi with rfl | rfl | rfl | rfl | rfl | rfl | rfl
  · exact finish_silent ⟨rfl, rfl, rfl, rfl⟩ false
  · by_cases hd : digit < 16
    · rw [exec_wrGlyph_of_lt _ _ _ hd]
      exact finish_silent ⟨rfl, rfl, rfl, rfl⟩ false
    · rw [exec_wrGlyph_of_not_lt _ _ _ hd]
      exact finish_silent ⟨rfl, rfl, rfl, rfl⟩ false
  · exact finish_silent ⟨rfl, rfl, rfl, rfl⟩ false
  · exact finish_silent ⟨rfl, rfl, rfl, rfl⟩ false
  · exact finish_silent ⟨rfl, rfl, rfl, rfl⟩ false
  · exact finish_silent ⟨rfl, rfl, rfl, rfl⟩ false
  · exact finish_silent (silent_charBody code s) _

/-! ### The assembler -/

/-- What is assembled, if anything, is well-formed. -/
def Fits (r : Except AsmError Instr) : Prop := ∀ i, r = .ok i → i.WellFormed

theorem fits_ok {i : Instr} (h : i.WellFormed) : Fits (.ok i) := by
  rintro _ ⟨⟩
  exact h

theorem fits_error (e : AsmError) : Fits (.error e) := by
  rintro _ ⟨⟩

theorem fits_inRange (i : Instr) : Fits (inRange i) := by
  unfold inRange
  split
  · exact fits_ok ‹_›
  · exact fits_error _

theorem fits_assemblePushing (row : Row) (p : Bool) (whole : List Char) (ops : List (List Char)) :
    Fits (assemblePushing row p whole ops) := by
  unfold assemblePushing
  split
  case h_1 => -- WR_DIGIT
    split
    · split
      · exact fits_inRange _
      · exact fits_error _
    · exact fits_error _
  case h_3 => -- WR_COLON
    split
    · exact fits_ok rfl
    · exact fits_error _
  case h_5 => exact fits_ok rfl -- CLEAR
  case h_7 => exact fits_error _ -- operands of no form
  all_goals -- WR_GLYPH, SET_DOT, WR_CHAR
    split
    · exact fits_inRange _
    · exact fits_error _

theorem fits_assemblePlain (row : Row) (ops : List (List Char)) : Fits (assemblePlain row ops) := by
  unfold assemblePlain
  split
  case h_6 | h_7 => -- SET_BRIGHT, SET_BLINK
    split
    · exact fits_inRange _
    · exact fits_error _
  case h_8 => -- RENDER
    split
    · split
      · exact fits_inRange _
      · exact fits_error _
    · exact fits_error _
  case h_9 => exact fits_error _ -- operands of no form
  all_goals exact fits_ok rfl -- the commands without operands

/-- Settles O59: each form of a line ends in an instruction without number operands or in the range check. -/
theorem assembledInstructionsAreWellFormed : Obligations.AssembledInstructionsAreWellFormed := by
  intro line
  change Fits (assembleChars line)
  unfold assembleChars
  dsimp only
  split
  · exact fits_assemblePushing _ _ _ _
  · split
    · split
      · exact fits_error _
      · exact fits_assemblePlain _ _
    · exact fits_error _

end Sys2Proof.Proofs.EncodingRules
end

section
/-! SUPPORT. The end of a command that writes one cell and then pushes if it was asked to. -/

namespace Sys2Proof.Machine

/-- The cell named by the position holds the mask with its dot, the other cells what they held; the push comes after. -/
theorem finish_pushIf_cellWrite (w p dot : Bool) (pos : Nat) (mask : Mask) (s : State) :
    ∃ t, finish w (pushIf p (s.cellWrite pos (cellOf s.cfg mask dot))) = .next t ∧
      (∀ q ≤ 4, t.buf.get q =
        if q = pos then (mask ||| (if dot then 0x80 else 0x00)).setWidth 16 else s.buf.get q) ∧
      SameControl s t ∧ EndsWithPush p w s t := by
  obtain ⟨t, ht, hbuf, hcontrol, hpush⟩ := finish_pushIf w p (s.cellWrite pos (cellOf s.cfg mask dot))
  refine ⟨t, ht, fun q hq => ?_, hcontrol, hpush⟩
  have hcell : (pos : Int) = (q : Int) ∧ q ≤ 4 ↔ q = pos := by omega
  simp only [hbuf, State.cellWrite_buf, Buf.get_cellWrite, cellOf_eq, hcell]

end Sys2Proof.Machine
end

section
/-! The statements of spec/40_glyph.md. -/

namespace Sys2Proof.Proofs.GlyphRules

open Sys2Proof.Machine

/-- Settles O27: with a digit in range the command is one cell write and its push. -/
theorem wrGlyphWritesTheTableEntry : Obligations.WrGlyphWritesTheTableEntry := by
  intro p dot pos digit s
  rw [exec_wrGlyph_of_lt p dot pos digit.isLt]
  exact finish_pushIf_cellWrite false p dot pos _ s

/-- Settles O28: with the digit out of range the command ends before its cell write and its push. -/
theorem wrGlyphAboveFifteenIsOutOfRange : Obligations.WrGlyphAboveFifteenIsOutOfRange := by
  intro p dot pos digit s h
  rw [exec_wrGlyph_of_not_lt p dot pos (by omega), finish_eq]
  rfl

end Sys2Proof.Proofs.GlyphRules
end

section
/-! SUPPORT. The bits of a cell under SET_DOT, the bytes of a push, and the end of a command that replaces the buffer and
then pushes if it was asked to (spec/41_buffer.md R130, R134). -/

namespace Sys2Proof.Machine

/-- Bit 7 is the dot, and the other fifteen bits stay. -/
theorem getLsbD_dotCell (cfg : Config) (on : Bool) (v : CellWord) {k : Nat} (hk : k < 16) :
    (dotCell cfg on v).getLsbD k = if k = 7 then on else v.getLsbD k := by
  have hdot : (0x0080 : CellWord).getLsbD k = decide (k = 7) := by
    interval_cases k <;> rfl
  rw [dotCell_eq]
  cases on
  · rw [if_neg Bool.false_ne_true, BitVec.getLsbD_and, BitVec.getLsbD_not, hdot]
    by_cases h7 : k = 7 <;> simp [h7, hk]
  · rw [if_pos rfl, BitVec.getLsbD_or, hdot]
    by_cases h7 : k = 7 <;> simp [h7]

theorem pushBytes_eq (cfg : Config) (b : Buf) : pushBytes cfg b = 0x00 :: snapshot cfg b := by
  rw [pushBytes, Config.params_eq, Params.spec_regDisplay]

/-- The new buffer is what the command leaves; the push comes after. -/
theorem finish_pushIf_setBuf (w p : Bool) (b : Buf) (s : State) :
    ∃ t, finish w (pushIf p (s.setBuf b)) = .next t ∧ t.buf = b ∧ SameControl s t ∧ EndsWithPush p w s t :=
  finish_pushIf w p (s.setBuf b)

end Sys2Proof.Machine
end

section
/-! The statements of spec/41_buffer.md. -/

namespace Sys2Proof.Proofs.BufferRules

open Sys2Proof.Machine

/-- Settles O26: the command is one cell write and its push. -/
theorem wrDigitReplacesTheCell : Obligations.WrDigitReplacesTheCell := fun p dot pos mask s =>
  finish_pushIf_cellWrite false p dot pos mask s

/-- Settles O29: of the five cells only the colon is set. -/
theorem wrColonReplacesTheColonCell : Obligations.WrColonReplacesTheColonCell := by
  intro p on s
  obtain ⟨t, ht, hbuf, hrest⟩ := finish_pushIf_setBuf false p (s.buf.set 4 (colonCell s.cfg on)) s
  refine ⟨t, ht, ?_, ?_, hrest⟩
  · rw [hbuf, ← colonCell_eq s.cfg]
    rfl
  · rw [hbuf]
    rfl

/-- Settles O30: a digit column changes by its dot bit, position 4 is the colon, and no other cell is the addressed one. -/
theorem setDotChangesOneBitOrTheColon : Obligations.SetDotChangesOneBitOrTheColon := by
  intro p on pos s
  obtain ⟨t, ht, hbuf, hrest⟩ := finish_pushIf_setBuf false p (s.buf.setDot s.cfg on pos) s
  refine ⟨t, ht, fun hdigit k hk => ?_, fun hcolon => ?_, fun q _ hother => ?_, hrest⟩
  · rw [hbuf, Buf.get_setDot, if_pos ⟨rfl, hdigit⟩, getLsbD_dotCell s.cfg on _ hk]
  · rw [hbuf, Buf.get_setDot, if_neg (by omega), if_pos ⟨hcolon.symm, hcolon⟩, colonCell_eq]
  · rw [hbuf, Buf.get_setDot, if_neg (fun h => hother h.1), if_neg (fun h => hother h.1)]

/-- Settles O31: the new buffer is the zero buffer. -/
theorem clearZeroesTheFiveCells : Obligations.ClearZeroesTheFiveCells := by
  intro p s
  obtain ⟨t, ht, hbuf, hrest⟩ := finish_pushIf_setBuf false p Buf.zero s
  exact ⟨t, ht, fun q _ => hbuf ▸ StateRules.get_zero q, hrest⟩

/-- Settles O23: the command is a push from the state it began in, and a push is one write of a header and a snapshot. -/
theorem flushPushesTheBuffer : Obligations.FlushPushesTheBuffer := by
  intro s
  obtain ⟨t, ht, hbuf, hcontrol, hpush⟩ := finish_pushIf false true s
  have htrace : t.trace = s.trace ++ [⟨s.cfg.devAddr, 0x00 :: snapshot s.cfg s.buf, s.nextAnswer⟩] := by
    obtain ⟨⟨hsent, -⟩, -⟩ := hpush
    rw [hsent, hbuf, pushBytes_eq]
  refine ⟨t, ht, hbuf, hcontrol, htrace, ?_, hpush⟩
  rw [htrace, List.getLast?_concat, Option.map_some, List.length_cons, snapshot_length]

/-- Settles O32: with nothing done and no push asked for, the response is all that is left of the command. -/
theorem nopOnlyAnswers : Obligations.NopOnlyAnswers := by
  intro s
  simp only [exec, execNop, pushIf_false, finish_eq]
  rfl

end Sys2Proof.Proofs.BufferRules
end

section
/-! SUPPORT. RENDER, common to both variants, the cells Variant A paints, and its arithmetic over the rationals
(spec/42_render_a.md R150, R152 to R167). -/

namespace Sys2Proof.Machine

/-! ### Cells by their slot from the right -/

/-- Writes of `g j` at the slots `j` of a list, counted from the right: the shape of steps 8 and 10. -/
def paintSlots (cfg : Config) (g : Nat → CellWord) (js : List Nat) (buf : Buf) : Buf :=
  js.foldl (fun b j => b.cellWrite cfg (slotPos cfg j) (g j)) buf

theorem Buf.get_cellWrite_slotPos (cfg : Config) (b : Buf) (j : Nat) (v : CellWord) {i : Nat} (hi : i ≤ 3) :
    (b.cellWrite cfg (slotPos cfg j) v).get (3 - i) = if i = j then v else b.get (3 - i) := by
  rw [Buf.get_cellWrite, slotPos_eq]
  congr 1
  apply propext
  omega

theorem Buf.colon_cellWrite_slotPos (cfg : Config) (b : Buf) (j : Nat) (v : CellWord) :
    (b.cellWrite cfg (slotPos cfg j) v).colon = b.colon := by
  have h := Buf.get_cellWrite cfg b (slotPos cfg j) 4 v
  rw [slotPos_eq, if_neg (by omega)] at h
  rw [slotPos_eq]
  exact h

theorem get_paintSlots (cfg : Config) (g : Nat → CellWord) (js : List Nat) (buf : Buf) {i : Nat} (hi : i ≤ 3) :
    (paintSlots cfg g js buf).get (3 - i) = if i ∈ js then g i else buf.get (3 - i) := by
  induction js generalizing buf with
  | nil => rfl
  | cons j js ih =>
    have hcons : paintSlots cfg g (j :: js) buf = paintSlots cfg g js (buf.cellWrite cfg (slotPos cfg j) (g j)) := rfl
    rw [hcons, ih, Buf.get_cellWrite_slotPos cfg buf j _ hi]
    by_cases hmem : i ∈ js
    · rw [if_pos hmem, if_pos (List.mem_cons_of_mem j hmem)]
    · rw [if_neg hmem]
      by_cases hij : i = j
      · rw [if_pos hij, if_pos (List.mem_cons.2 (.inl hij)), hij]
      · rw [if_neg hij, if_neg (List.not_mem_cons_of_ne_of_not_mem hij hmem)]

theorem colon_paintSlots (cfg : Config) (g : Nat → CellWord) (js : List Nat) (buf : Buf) :
    (paintSlots cfg g js buf).colon = buf.colon :=
  List.foldlRecOn (motive := fun u : Buf => u.colon = buf.colon) _ _ rfl fun _ hu _ _ =>
    (Buf.colon_cellWrite_slotPos ..).trans hu

theorem paintDigits_eq_paintSlots (cfg : Config) (N b f n : Nat) (buf : Buf) :
    paintDigits cfg N b f n buf =
      paintSlots cfg (fun i => cellOf cfg (glyph cfg.glyph (digitValue N b i)) (dotAt f i)) (List.range n) buf := rfl

theorem paintBlanks_eq_paintSlots (cfg : Config) (k : Nat) (buf : Buf) :
    paintBlanks cfg k buf = paintSlots cfg (fun _ => 0x0000) (List.range' k (4 - k)) buf := by
  rw [paintBlanks, Config.params_eq, Params.spec_numDigits, Params.spec_blank, cellOf_false]
  rfl

theorem paintSign_eq_paintSlots (cfg : Config) (neg : Bool) (n : Nat) (buf : Buf) :
    paintSign cfg neg n buf = paintSlots cfg (fun _ => 0x0040) (if neg then [n] else []) buf := by
  rw [paintSign, Config.params_eq, Params.spec_minus, cellOf_false]
  cases neg <;> rfl

/-! ### Steps 8 to 10, cell by cell -/

/-- Steps 8 to 10 of Variant A (42 R161 to R165): digits, then the sign, then blanks. -/
def paintNumber (cfg : Config) (neg : Bool) (N b f : Nat) (buf : Buf) : Buf :=
  paintBlanks cfg (if neg then numEmitted N b f + 1 else numEmitted N b f)
    (paintSign cfg neg (numEmitted N b f) (paintDigits cfg N b f (numEmitted N b f) buf))

section
variable (cfg : Config) (buf : Buf) {i : Nat} (hi : i ≤ 3)
include hi

theorem get_paintDigits (N b f n : Nat) :
    (paintDigits cfg N b f n buf).get (3 - i) =
      if i < n then cellOf cfg (glyph cfg.glyph (digitValue N b i)) (dotAt f i) else buf.get (3 - i) := by
  simp only [paintDigits_eq_paintSlots, get_paintSlots _ _ _ _ hi, List.mem_range]

theorem get_paintSign (neg : Bool) (n : Nat) :
    (paintSign cfg neg n buf).get (3 - i) = if i = n ∧ neg = true then 0x0040 else buf.get (3 - i) := by
  rw [paintSign_eq_paintSlots, get_paintSlots _ _ _ _ hi]
  cases neg <;> simp

theorem get_paintBlanks (k : Nat) :
    (paintBlanks cfg k buf).get (3 - i) = if k ≤ i then 0x0000 else buf.get (3 - i) := by
  have hrange : k ≤ i ∧ i < k + (4 - k) ↔ k ≤ i := by omega
  simp only [paintBlanks_eq_paintSlots, get_paintSlots _ _ _ _ hi, List.mem_range'_1, hrange]

/-- Every digit cell is written, with a digit, the sign or a blank: nothing of the old buffer is left. -/
theorem get_paintNumber (neg : Bool) (N b f : Nat) :
    (paintNumber cfg neg N b f buf).get (3 - i) =
      if i < numEmitted N b f then cellOf cfg (glyph cfg.glyph (digitValue N b i)) (dotAt f i)
      else if i = numEmitted N b f ∧ neg = true then 0x0040 else 0x0000 := by
  rw [paintNumber, get_paintBlanks _ _ hi, get_paintSign _ _ hi, get_paintDigits _ _ hi]
  generalize numEmitted N b f = n
  rcases Nat.lt_trichotomy i n with hlt | rfl | hgt
  · have hblank : ¬ (if neg = true then n + 1 else n) ≤ i := by split <;> omega
    rw [if_neg hblank, if_neg (by omega), if_pos hlt, if_pos hlt]
  · cases neg <;> simp
  · have hblank : (if neg = true then n + 1 else n) ≤ i := by split <;> omega
    rw [if_pos hblank, if_neg (by omega), if_neg (by omega)]

end

theorem colon_paintNumber (cfg : Config) (neg : Bool) (N b f : Nat) (buf : Buf) :
    (paintNumber cfg neg N b f buf).colon = buf.colon := by
  rw [paintNumber, paintBlanks_eq_paintSlots, colon_paintSlots, paintSign_eq_paintSlots, colon_paintSlots,
    paintDigits_eq_paintSlots, colon_paintSlots]

/-! ### Variant A -/

section
variable {cfg : Config} {neg : Bool} {m frac b : Nat}

theorem renderA_of_none (h : reduceFrac cfg m b (b ^ slots cfg neg) frac = none) (buf : Buf) :
    renderA cfg neg m frac b buf = buf.errorPattern cfg := by
  rw [renderA, h]

theorem renderA_of_some {f : Nat} (h : reduceFrac cfg m b (b ^ slots cfg neg) frac = some f) (buf : Buf) :
    renderA cfg neg m frac b buf = paintNumber cfg neg (scaledFloor cfg m b f) b f buf := by
  rw [renderA, h]
  rfl

end

theorem paintValue_of_variant_a {cfg : Config} (h : cfg.variant = .a) (val : ValWord) (frac : Nat) (b : Base)
    (buf : Buf) :
    paintValue cfg val frac b buf = renderA cfg (valueNeg val) (valueMag val) frac (radix b) buf := by
  rw [paintValue, h]

/-! ### Both variants: what the repaint takes from the old buffer -/

theorem colon_renderA (cfg : Config) (neg : Bool) (m frac b : Nat) (buf : Buf) :
    (renderA cfg neg m frac b buf).colon = buf.colon := by
  cases h : reduceFrac cfg m b (b ^ slots cfg neg) frac with
  | none => rw [renderA_of_none h]; rfl
  | some f => rw [renderA_of_some h, colon_paintNumber]

theorem colon_paintValue (cfg : Config) (val : ValWord) (frac : Nat) (b : Base) (buf : Buf) :
    (paintValue cfg val frac b buf).colon = buf.colon := by
  unfold paintValue
  split
  · exact colon_renderA ..
  · rfl

theorem get_errorPattern (cfg : Config) (b b' : Buf) {q : Nat} (hq : q ≤ 3) :
    (b.errorPattern cfg).get q = (b'.errorPattern cfg).get q := by
  interval_cases q <;> rfl

theorem get_renderA_congr (cfg : Config) (neg : Bool) (m frac b : Nat) (buf buf' : Buf) {q : Nat} (hq : q ≤ 3) :
    (renderA cfg neg m frac b buf).get q = (renderA cfg neg m frac b buf').get q := by
  cases h : reduceFrac cfg m b (b ^ slots cfg neg) frac with
  | none => rw [renderA_of_none h, renderA_of_none h, get_errorPattern cfg buf buf' hq]
  | some f =>
    obtain ⟨i, hi, rfl⟩ : ∃ i ≤ 3, q = 3 - i := ⟨3 - q, by omega, by omega⟩
    rw [renderA_of_some h, renderA_of_some h, get_paintNumber _ _ hi, get_paintNumber _ _ hi]

theorem get_renderB_congr (cfg : Config) (neg : Bool) (m frac b : Nat) (buf buf' : Buf) {q : Nat} (hq : q ≤ 3) :
    (renderB cfg neg m frac b buf).get q = (renderB cfg neg m frac b buf').get q := by
  interval_cases q <;> rfl

/-- RENDER reads no cell (42 R150): the digit cells are the same whatever the buffer held. -/
theorem get_paintValue_congr (cfg : Config) (val : ValWord) (frac : Nat) (b : Base) (buf buf' : Buf) {q : Nat}
    (hq : q ≤ 3) : (paintValue cfg val frac b buf).get q = (paintValue cfg val frac b buf').get q := by
  unfold paintValue
  split
  · exact get_renderA_congr _ _ _ _ _ _ _ hq
  · exact get_renderB_congr _ _ _ _ _ _ _ hq

/-- A second repaint with the same operands finds the cells it would write. -/
theorem paintValue_idem (cfg : Config) (val : ValWord) (frac : Nat) (b : Base) (buf : Buf) :
    paintValue cfg val frac b (paintValue cfg val frac b buf) = paintValue cfg val frac b buf := by
  apply Buf.ext_get
  intro q hq
  rcases Nat.lt_or_eq_of_le hq with hdigit | rfl
  · exact get_paintValue_congr cfg val frac b _ _ (by omega)
  · exact colon_paintValue ..

/-- The digit cells are narrow even where the buffer before was not. -/
theorem highByteZero_paintValue (cfg : Config) (val : ValWord) (frac : Nat) (b : Base) (buf : Buf) {q : Nat}
    (hq : q ≤ 3) : highByteZero ((paintValue cfg val frac b buf).get q) := by
  rw [get_paintValue_congr cfg val frac b buf Buf.zero hq]
  exact cellsNarrow_iff_get.1 (cellsNarrow_zero.paintValue ..) q

theorem digitCells_congr {b b' : Buf} (h : ∀ q ≤ 3, b.get q = b'.get q) : digitCells b = digitCells b' := by
  have h0 : b.dig0 = b'.dig0 := h 0 (by omega)
  have h1 : b.dig1 = b'.dig1 := h 1 (by omega)
  have h2 : b.dig2 = b'.dig2 := h 2 (by omega)
  have h3 : b.dig3 = b'.dig3 := h 3 (by omega)
  rw [digitCells, digitCells, h0, h1, h2, h3]

/-- With a supported base RENDER is the repaint and its push. -/
theorem exec_render_paints {s : State} {base : Nat} {b : Base} (h : baseOf s.cfg base = some b) (frac : Nat)
    (val : ValWord) :
    ∃ t, exec (.render frac base val) s = .next t ∧ t.buf = paintValue s.cfg val frac b s.buf ∧ SameControl s t ∧
      EndsWithPush true false s t := by
  rw [exec_render_of_some h]
  exact finish_pushIf false true (s.setBuf _)

/-! ### The number on the `val` lines -/

theorem abs_valueOf (val : ValWord) : |valueOf val| = (valueMag val : ℚ) / 2 ^ 32 := by
  rw [valueOf, abs_div, ← Int.cast_abs, Int.abs_eq_natAbs, Int.cast_natCast, valueMag]
  norm_num

theorem valueNeg_iff (val : ValWord) : valueNeg val = true ↔ valueOf val < 0 := by
  rw [valueNeg, decide_eq_true_iff, valueOf, div_lt_iff₀ (by norm_num), zero_mul, Int.cast_lt_zero]

theorem slots_eq_slotsOf (cfg : Config) (val : ValWord) : slots cfg (valueNeg val) = slotsOf (valueOf val) := by
  simp only [slots_eq, slotsOf, valueNeg_iff]

/-- The model's integer arithmetic is the rational floor of 42 R157. -/
theorem scaledFloor_eq_floor (cfg : Config) (val : ValWord) (b f : Nat) :
    scaledFloor cfg (valueMag val) b f = ⌊|valueOf val| * (b : ℚ) ^ f + 1 / 2⌋₊ := by
  have hquot : |valueOf val| * (b : ℚ) ^ f + 1 / 2 =
      ((2 * (valueMag val * b ^ f) + 2 ^ 32 : Nat) : ℚ) / (2 ^ 33 : Nat) := by
    rw [abs_valueOf]
    push_cast
    ring
  rw [scaledFloor_eq, hquot, Nat.floor_div_eq_div]

/-- A scaled value is below the integer bound exactly when its floor is (42 R158). -/
theorem scaledFloor_lt_iff (cfg : Config) (val : ValWord) (b f k : Nat) :
    scaledFloor cfg (valueMag val) b f < b ^ k ↔ |valueOf val| * (b : ℚ) ^ f + 1 / 2 < (b : ℚ) ^ k := by
  rw [scaledFloor_eq_floor, Nat.floor_lt (by positivity), Nat.cast_pow]

theorem le_scaledFloor_iff (cfg : Config) (val : ValWord) (b f k : Nat) :
    b ^ k ≤ scaledFloor cfg (valueMag val) b f ↔ (b : ℚ) ^ k ≤ |valueOf val| * (b : ℚ) ^ f + 1 / 2 := by
  rw [← not_lt, scaledFloor_lt_iff, not_lt]

/-- The loop's `f` is the greatest that fits, since it is the first from the top; and none fits only where not even the
integer part does, since scaling by more digits only adds (42 R158). -/
theorem reduceFrac_closed_form (cfg : Config) (val : ValWord) (b : Base) (frac : Nat) :
    (∃ f, reduceFrac cfg (valueMag val) (radix b) (radix b ^ slots cfg (valueNeg val)) frac = some f ∧
      |valueOf val| + 1 / 2 < (radix b : ℚ) ^ slotsOf (valueOf val) ∧
      IsGreatest {j : Nat | j ≤ frac ∧
        |valueOf val| * (radix b : ℚ) ^ j + 1 / 2 < (radix b : ℚ) ^ slotsOf (valueOf val)} f) ∨
    (reduceFrac cfg (valueMag val) (radix b) (radix b ^ slots cfg (valueNeg val)) frac = none ∧
      (radix b : ℚ) ^ slotsOf (valueOf val) ≤ |valueOf val| + 1 / 2) := by
  have hcases := reduceFrac_cases cfg (valueMag val) (radix b) (radix b ^ slots cfg (valueNeg val)) frac
  simp only [slots_eq_slotsOf, scaledFloor_lt_iff, le_scaledFloor_iff] at hcases ⊢
  rcases hcases with ⟨f, hf, hle, hlt, hmax⟩ | ⟨hnone, hover⟩
  · have hradix : (1 : ℚ) ≤ radix b := by exact_mod_cast (radix_bounds b).1.trans' one_le_two
    have hscale : |valueOf val| ≤ |valueOf val| * (radix b : ℚ) ^ f :=
      le_mul_of_one_le_right (abs_nonneg _) (one_le_pow₀ hradix)
    refine .inl ⟨f, hf, by linarith, ⟨hle, hlt⟩, fun j ⟨hj, hjfits⟩ => ?_⟩
    exact not_lt.1 fun hfj => (hmax j hfj hj).not_gt hjfits
  · exact .inr ⟨hnone, by simpa using hover 0 (Nat.zero_le _)⟩

theorem dotAt_iff (f i : Nat) : dotAt f i = true ↔ 0 < f ∧ i = f := by
  rw [dotAt, Bool.and_eq_true, decide_eq_true_iff, decide_eq_true_iff]

theorem isLeast_ndigits {b : Nat} (hb : 2 ≤ b) (N : Nat) : IsLeast {j : Nat | N < b ^ j} (ndigits N b) := by
  obtain ⟨hlt, hmin⟩ := ndigits_spec hb N
  exact ⟨hlt, fun j hj => not_lt.1 fun hlt' => Nat.not_lt.2 (hmin j hlt') hj⟩

end Sys2Proof.Machine
end

section
/-! SUPPORT. The cells of an integer that fits, under either variant (spec/42_render_a.md R168, R171,
spec/43_render_b.md R192, spec/95_test_vectors.md part 2). -/

namespace Sys2Proof.Machine

/-! ### The digits of a number -/

theorem ndigits_eq_length_digits {b : Nat} (hb : 2 ≤ b) (N : Nat) : ndigits N b = (Nat.digits b N).length := by
  have hdigits : IsLeast {j : Nat | N < b ^ j} (Nat.digits b N).length :=
    ⟨(Nat.digits_length_le_iff (by omega) N).1 le_rfl, fun _ hj => (Nat.digits_length_le_iff (by omega) N).2 hj⟩
  exact (isLeast_ndigits hb N).unique hdigits

theorem length_digits_pos {b N : Nat} (hN : N ≠ 0) : 0 < (Nat.digits b N).length :=
  List.length_pos_iff.2 (Nat.digits_ne_nil_iff_ne_zero.2 hN)

theorem digits_eq_map_range {b : Nat} (hb : 2 ≤ b) (N : Nat) :
    Nat.digits b N = (List.range (ndigits N b)).map (fun i => N / b ^ i % b) := by
  apply List.ext_getElem
  · rw [List.length_map, List.length_range, ndigits_eq_length_digits hb]
  · intro i hi _
    rw [List.getElem_map, List.getElem_range, ← Nat.getD_digits N i hb, List.getD_eq_getElem _ _ hi]

/-- The digits step 8 emits with no fractional digit, right to left, are those of the text of the number. -/
theorem digitText_eq {b : Nat} (hb : 2 ≤ b) (N : Nat) :
    digitText b N = ((List.range (numEmitted N b 0)).map (fun i => N / b ^ i % b)).reverse := by
  rw [digitText, numEmitted]
  by_cases hN : N = 0
  · subst hN
    rw [if_pos rfl, ndigits_eq_length_digits hb, Nat.digits_zero]
    simp
  · have hpos : 0 < ndigits N b := ndigits_eq_length_digits hb N ▸ length_digits_pos hN
    rw [if_neg hN, digits_eq_map_range hb, Nat.zero_add, Nat.max_eq_left hpos]

theorem length_digitText {b : Nat} (hb : 2 ≤ b) (N : Nat) : (digitText b N).length = numEmitted N b 0 := by
  simp [digitText_eq hb]

theorem digitText_lt {b : Nat} (hb : 2 ≤ b) {N d : Nat} (hd : d ∈ digitText b N) : d < b := by
  rw [digitText_eq hb, List.mem_reverse, List.mem_map] at hd
  obtain ⟨i, -, rfl⟩ := hd
  exact Nat.mod_lt _ (by omega)

/-! ### The integer on the `val` lines -/

theorem toInt_intWord {v : Int} (hlow : -2 ^ 31 ≤ v) (hhigh : v < 2 ^ 31) : (intWord v).toInt = v * 2 ^ 32 :=
  BitVec.toInt_ofInt_eq_self (by omega) (by omega) (by omega)

theorem valueNeg_intWord {v : Int} (hlow : -2 ^ 31 ≤ v) (hhigh : v < 2 ^ 31) :
    valueNeg (intWord v) = decide (v < 0) := by
  rw [valueNeg, toInt_intWord hlow hhigh]
  congr 1
  apply propext
  omega

theorem valueMag_intWord {v : Int} (hlow : -2 ^ 31 ≤ v) (hhigh : v < 2 ^ 31) :
    valueMag (intWord v) = v.natAbs * 2 ^ 32 := by
  rw [valueMag, toInt_intWord hlow hhigh, Int.natAbs_mul]
  rfl

/-- A whole number is its own rounding. -/
theorem scaledFloor_whole (cfg : Config) (N b : Nat) : scaledFloor cfg (N * 2 ^ 32) b 0 = N := by
  rw [scaledFloor_eq, pow_zero, mul_one]
  omega

/-! ### The cells of an integer -/

/-- The cell of a digit without a dot. -/
def digitCell (t : GlyphTable) (d : Nat) : CellWord := (glyph t (Fin.ofNat 16 d)).setWidth 16

/-- An integer right-aligned in the four digit cells: blanks, the sign, the digits. -/
def integerCells (t : GlyphTable) (neg : Bool) (b N : Nat) : List CellWord :=
  List.replicate ((if neg then 3 else 4) - (digitText b N).length) 0x0000 ++
    ((if neg then [0x0040] else []) ++ (digitText b N).map (digitCell t))

/-- A number below the bound of 42 R154 has no more digits than slots. -/
theorem length_digitText_le {cfg : Config} {neg : Bool} {b N : Nat} (hb : 2 ≤ b) (hN : N < b ^ slots cfg neg) :
    (digitText b N).length ≤ if neg then 3 else 4 := by
  have hdigits : (Nat.digits b N).length ≤ slots cfg neg := (Nat.digits_length_le_iff (by omega) N).2 hN
  rw [slots_eq] at hdigits
  rw [length_digitText hb, numEmitted, ndigits_eq_length_digits hb]
  exact max_le hdigits (by split <;> omega)

/-! ### Variant A -/

theorem digitCells_eq_map (buf : Buf) :
    digitCells buf = ((List.range 4).map (fun i => buf.get (3 - i))).reverse := rfl

/-- Four slots counted from the right, `n` of them digits, then the sign, then blanks, read from the left. -/
theorem slots_from_left (neg : Bool) {n : Nat} (hn : n ≤ if neg then 3 else 4) (g : Nat → CellWord) :
    ((List.range 4).map (fun i => if i < n then g i else if i = n ∧ neg = true then 0x0040 else 0x0000)).reverse =
      List.replicate ((if neg then 3 else 4) - n) 0x0000 ++
        ((if neg then [0x0040] else []) ++ ((List.range n).map g).reverse) := by
  cases neg
  · have hn4 : n ≤ 4 := hn
    interval_cases n <;> simp [List.range_succ, List.replicate]
  · have hn3 : n ≤ 3 := hn
    interval_cases n <;> simp [List.range_succ, List.replicate]

theorem renderA_integer (cfg : Config) (neg : Bool) {b N : Nat} (hb : 2 ≤ b) (hN : N < b ^ slots cfg neg) (buf : Buf) :
    digitCells (renderA cfg neg (N * 2 ^ 32) 0 b buf) = integerCells cfg.glyph neg b N := by
  have hreduce : reduceFrac cfg (N * 2 ^ 32) b (b ^ slots cfg neg) 0 = some 0 := by
    rw [reduceFrac, scaledFloor_whole, if_neg (by omega)]
  have hlen : numEmitted N b 0 ≤ if neg then 3 else 4 := length_digitText hb N ▸ length_digitText_le hb hN
  have hcells : (List.range 4).map (fun i => (paintNumber cfg neg N b 0 buf).get (3 - i)) =
      (List.range 4).map (fun i => if i < numEmitted N b 0 then digitCell cfg.glyph (N / b ^ i % b)
        else if i = numEmitted N b 0 ∧ neg = true then 0x0040 else 0x0000) := by
    refine List.map_congr_left fun i hi => ?_
    rw [get_paintNumber cfg buf (by have := List.mem_range.1 hi; omega), show dotAt 0 i = false from rfl, cellOf_false]
    rfl
  rw [renderA_of_some hreduce, scaledFloor_whole, digitCells_eq_map, hcells, slots_from_left neg hlen, integerCells,
    length_digitText hb, digitText_eq hb, List.map_reverse, List.map_map]
  rfl

/-! ### Variant B -/

theorem digitsLow_eq {b : Nat} (hb : 2 ≤ b) (fuel N : Nat) (hN : N ≤ fuel) :
    digitsLow b fuel N = (Nat.digits b N).map (Fin.ofNat 16) := by
  induction fuel generalizing N with
  | zero =>
    obtain rfl : N = 0 := by omega
    simp [digitsLow]
  | succ fuel ih =>
    rw [digitsLow]
    split
    · subst N
      simp
    · have hdiv : N / b < N := Nat.div_lt_self (by omega) (by omega)
      rw [Nat.digits_def' (by omega) (by omega), List.map_cons, ih _ (by omega)]

theorem digitsPadded_one {b : Nat} (hb : 2 ≤ b) (N : Nat) :
    digitsPadded b N 1 = (digitText b N).map (Fin.ofNat 16) := by
  rw [digitsPadded, digitsLow_eq hb N N le_rfl, digitText]
  by_cases hN : N = 0
  · subst hN
    simp
  · rw [if_neg hN, List.length_map, Nat.sub_eq_zero_of_le (length_digits_pos hN), List.map_reverse]
    rfl

/-- The text of an integer is its sign and its digits, in any base. -/
theorem formatB_integer (cfg : Config) (neg : Bool) {b : Nat} (hb : 2 ≤ b) (N : Nat) :
    formatB cfg neg (N * 2 ^ 32) 0 b =
      (if neg then [.minus] else []) ++ (digitText b N).map (fun d => .digit (Fin.ofNat 16 d)) := by
  rw [formatB]
  congr 1
  split
  · subst b
    rw [formatDec, scaledFloor_whole, digitsPadded_one (by omega)]
    simp
  · rw [formatInt, Config.params_eq, Params.spec_valueFracBits, Nat.mul_div_cancel _ (by omega), digitsPadded_one hb,
      List.map_map]
    rfl

/-- A digit or a sign fills the next slot, while there is one. -/
theorem scan_meaningful (cfg : Config) (pad : Nat) {c : TextChar} (hc : isMeaningful c = true) (text : List TextChar)
    {p : Nat} (hp : p < 4) (out : List Mask) :
    scan cfg pad (c :: text) p out = scan cfg pad text (p + 1) (out.set p (charMask cfg c)) := by
  have hroom : p ≠ cfg.params.numDigits := by
    rw [Config.params_eq, Params.spec_numDigits]
    omega
  cases c with
  | digit d => rw [scan, if_neg hroom]
  | minus => rw [scan, if_neg hroom]
  | point => cases hc
  | other => cases hc

/-- A text of digits and signs that fits the slots left fills them one by one. -/
theorem scan_of_fits (cfg : Config) (pad : Nat) (text : List TextChar) (htext : ∀ c ∈ text, isMeaningful c = true)
    (before after : List Mask) (hlen : after.length = text.length) (hfits : before.length + text.length ≤ 4) :
    scan cfg pad text before.length (before ++ after) = before ++ text.map (charMask cfg) := by
  induction text generalizing before after with
  | nil =>
    obtain rfl := List.length_eq_zero_iff.1 hlen
    rfl
  | cons c text ih =>
    obtain ⟨m, after, rfl⟩ := List.exists_cons_of_length_eq_add_one hlen
    obtain ⟨hc, htext⟩ := List.forall_mem_cons.1 htext
    rw [List.length_cons] at hfits hlen
    have hset : (before ++ m :: after).set before.length (charMask cfg c) = (before ++ [charMask cfg c]) ++ after := by
      simp
    have hnext := ih htext (before ++ [charMask cfg c]) after (by simpa using hlen) (by simp; omega)
    rw [scan_meaningful cfg pad hc text (by omega), hset]
    simpa using hnext

/-- A text of at most four digits and signs is right-aligned. -/
theorem scanB_of_fits (cfg : Config) {text : List TextChar} (htext : ∀ c ∈ text, isMeaningful c = true)
    (hlen : text.length ≤ 4) :
    scanB cfg text = List.replicate (4 - text.length) 0x00 ++ text.map (charMask cfg) := by
  have hpad : padOf cfg text = 4 - text.length := by rw [padOf_eq, List.countP_eq_length.2 htext]
  have hblank : List.replicate 4 (0x00 : Mask) =
      List.replicate (4 - text.length) 0x00 ++ List.replicate text.length 0x00 := by
    rw [List.replicate_append_replicate, Nat.sub_add_cancel hlen]
  have hscan := scan_of_fits cfg (4 - text.length) text htext (List.replicate (4 - text.length) 0x00)
    (List.replicate text.length 0x00) (by simp) (by simp; omega)
  rw [List.length_replicate] at hscan
  rw [scanB, hpad, Config.params_eq, Params.spec_numDigits, Params.spec_blank, hblank, hscan]

theorem digitCells_paintImage (cfg : Config) {out : List Mask} (hout : out.length = 4) (buf : Buf) :
    digitCells (paintImage cfg out buf) = out.map (·.setWidth 16) := by
  obtain ⟨a, b, c, d, rfl⟩ := List.length_eq_four.1 hout
  simp [paintImage, digitCells]

theorem isMeaningful_formatB_integer (cfg : Config) (neg : Bool) {b : Nat} (hb : 2 ≤ b) (N : Nat) :
    ∀ c ∈ formatB cfg neg (N * 2 ^ 32) 0 b, isMeaningful c = true := by
  rw [formatB_integer cfg neg hb, List.forall_mem_append, List.forall_mem_map]
  refine ⟨?_, fun _ _ => rfl⟩
  cases neg <;> simp [isMeaningful]

theorem renderB_integer (cfg : Config) (neg : Bool) {b N : Nat} (hb : 2 ≤ b) (hN : N < b ^ slots cfg neg) (buf : Buf) :
    digitCells (renderB cfg neg (N * 2 ^ 32) 0 b buf) = integerCells cfg.glyph neg b N := by
  have hdigits := length_digitText_le hb hN
  obtain ⟨hfour, hpad⟩ : (formatB cfg neg (N * 2 ^ 32) 0 b).length ≤ 4 ∧
      4 - (formatB cfg neg (N * 2 ^ 32) 0 b).length = (if neg then 3 else 4) - (digitText b N).length := by
    rw [formatB_integer cfg neg hb]
    cases neg <;> simp at hdigits ⊢ <;> omega
  have hscan := scanB_of_fits cfg (isMeaningful_formatB_integer cfg neg hb N) hfour
  have hlength : (scanB cfg (formatB cfg neg (N * 2 ^ 32) 0 b)).length = 4 := by
    rw [hscan, List.length_append, List.length_replicate, List.length_map, Nat.sub_add_cancel hfour]
  rw [renderB, digitCells_paintImage cfg hlength, hscan, hpad, formatB_integer cfg neg hb, integerCells]
  cases neg <;> simp [charMask, digitCell, Function.comp_def]

/-! ### Both variants -/

/-- An integer fits when its digits leave a slot for its sign. -/
def IntegerFits (b : Base) (v : Int) : Prop :=
  (0 ≤ v ∧ v < (radix b : Int) ^ 4) ∨ (-((radix b : Int) ^ 3) < v ∧ v < 0)

theorem IntegerFits.natAbs_lt {b : Base} {v : Int} (h : IntegerFits b v) (cfg : Config) :
    v.natAbs < radix b ^ slots cfg (decide (v < 0)) := by
  zify
  rw [slots_eq]
  rcases h with ⟨hlow, hhigh⟩ | ⟨hlow, hhigh⟩
  · simpa [not_lt.2 hlow, abs_of_nonneg hlow] using hhigh
  · simpa [hhigh, abs_of_neg hhigh] using neg_lt.1 hlow

theorem IntegerFits.bounds {b : Base} {v : Int} (h : IntegerFits b v) : -2 ^ 31 ≤ v ∧ v < 2 ^ 31 := by
  unfold IntegerFits at h
  cases b <;> simp only [radix] at h <;> omega

/-- Either variant paints an integer that fits as its sign and its digits. -/
theorem digitCells_paintValue_integer (cfg : Config) {b : Base} {v : Int} (h : IntegerFits b v) (buf : Buf) :
    digitCells (paintValue cfg (intWord v) 0 b buf) = integerCells cfg.glyph (decide (v < 0)) (radix b) v.natAbs := by
  obtain ⟨hlow, hhigh⟩ := h.bounds
  have hb := (radix_bounds b).1
  have hN := h.natAbs_lt cfg
  rw [paintValue, valueNeg_intWord hlow hhigh, valueMag_intWord hlow hhigh]
  split
  · exact renderA_integer cfg _ hb hN buf
  · exact renderB_integer cfg _ hb hN buf

theorem exec_render_integer (s : State) {b : Base} {v : Int} (h : IntegerFits b v) :
    ∃ t, exec (.render 0 (radix b) (intWord v)) s = .next t ∧
      digitCells t.buf = integerCells s.cfg.glyph (decide (v < 0)) (radix b) v.natAbs ∧
      t.buf.colon = s.buf.colon := by
  obtain ⟨t, ht, hbuf, -⟩ := exec_render_paints (baseOf_radix s.cfg b) 0 (intWord v)
  refine ⟨t, ht, ?_, ?_⟩
  · rw [hbuf, digitCells_paintValue_integer s.cfg h]
  · rw [hbuf, colon_paintValue]

theorem Buf.ext_digitCells {b b' : Buf} (hdigits : digitCells b = digitCells b') (hcolon : b.colon = b'.colon) :
    b = b' := by
  cases b
  cases b'
  simp only [digitCells, List.cons.injEq] at hdigits hcolon
  simp only [hdigits, hcolon]

/-! ### Reading the cells back -/

section
variable {t : GlyphTable} (hdistinct : ∀ d e : Fin 16, t[d] = t[e] → d = e)
  (hnotBlank : ∀ d : Fin 16, t[d] ≠ 0x00)

theorem setWidth_mask_injective {m m' : Mask} (h : m.setWidth 16 = m'.setWidth 16) : m = m' := by
  apply BitVec.eq_of_toNat_eq
  rw [← BitVec.toNat_setWidth_of_le (w' := 16) (b := m) (by decide), h, BitVec.toNat_setWidth_of_le (by decide)]

include hdistinct in
theorem cellDigit_digitCell (d : Nat) : cellDigit t (digitCell t d) = some (Fin.ofNat 16 d) := by
  cases h : cellDigit t (digitCell t d) with
  | none => simpa [digitCell] using List.find?_eq_none.1 h (Fin.ofNat 16 d) (List.mem_finRange _)
  | some e =>
    have hglyph : (glyph t e).setWidth 16 = digitCell t d := by simpa using List.find?_some h
    rw [hdistinct e _ (setWidth_mask_injective hglyph)]

include hnotBlank in
theorem digitCell_ne_blank (d : Nat) : digitCell t d ≠ 0 :=
  fun h => hnotBlank (Fin.ofNat 16 d) (setWidth_mask_injective h)

include hdistinct in
theorem mapM_cellDigit (ds : List Nat) :
    (ds.map (digitCell t)).mapM (cellDigit t) = some (ds.map (Fin.ofNat 16)) := by
  rw [List.mapM_map]
  simp only [Function.comp_def, cellDigit_digitCell hdistinct]
  exact List.mapM_pure

include hdistinct hnotBlank in
/-- The blanks in front go, and every digit has its own glyph. -/
theorem digitsShown_integerCells {b : Nat} (hb : 2 ≤ b) (hb16 : b ≤ 16) (N : Nat) :
    digitsShown t (integerCells t false b N) = some (digitText b N) := by
  have hdigits : ((digitText b N).map (digitCell t)).dropWhile (· == 0) = (digitText b N).map (digitCell t) := by
    refine List.dropWhile_eq_self_iff.2 fun _ => ?_
    rw [List.getElem_map, beq_iff_eq]
    exact digitCell_ne_blank hnotBlank _
  have hval : (digitText b N).map (fun d => (Fin.ofNat 16 d).val) = digitText b N := by
    refine (List.map_congr_left fun d hd => ?_).trans (List.map_id _)
    exact Nat.mod_eq_of_lt ((digitText_lt hb hd).trans_le hb16)
  rw [digitsShown, integerCells, if_neg Bool.false_ne_true, if_neg Bool.false_ne_true, List.nil_append,
    List.dropWhile_append_of_pos (by simp), hdigits, mapM_cellDigit hdistinct, Option.map_some, List.map_map]
  exact congrArg some hval

end

end Sys2Proof.Machine
end

section
/-! The statements of spec/42_render_a.md. -/

namespace Sys2Proof.Proofs.RenderARules

open Sys2Proof.Machine

/-- Settles O42: the repaint keeps the colon cell, and its digit cells are those of a repaint of the zero buffer. -/
theorem renderRepaintsDigitsAndPushesOnce : Obligations.RenderRepaintsDigitsAndPushesOnce := by
  intro frac base val s hbase
  obtain ⟨b, hb⟩ := exists_baseOf_of_isBase s.cfg hbase
  obtain ⟨t, ht, hbuf, hcontrol, hpush⟩ := exec_render_paints hb frac val
  refine ⟨t, ht, ?_, hcontrol, hpush, fun q hq => ?_⟩
  · rw [hbuf, colon_paintValue]
  · rw [hbuf]
    exact highByteZero_paintValue s.cfg val frac b s.buf hq

/-- Settles O43: no digit cell is taken from the old buffer. -/
theorem renderReadsNoState : Obligations.RenderReadsNoState := by
  intro frac base val s s' hbase hcfg
  obtain ⟨b, hb⟩ := exists_baseOf_of_isBase s.cfg hbase
  obtain ⟨t, ht, hbuf, -⟩ := exec_render_paints hb frac val
  obtain ⟨t', ht', hbuf', -⟩ := exec_render_paints (hcfg ▸ hb) frac val
  refine ⟨t, t', ht, ht', digitCells_congr fun q hq => ?_⟩
  rw [hbuf, hbuf', ← hcfg]
  exact get_paintValue_congr s.cfg val frac b s.buf s'.buf hq

/-- Settles O44: a supported base repaints what the first run painted, any other base changes no cell at all. -/
theorem renderTwiceGivesTheSameSnapshot : Obligations.RenderTwiceGivesTheSameSnapshot := by
  intro frac base val s
  cases hb : baseOf s.cfg base with
  | none =>
    exact ⟨s.respond ⟨false, .unsupportedBase⟩, _, exec_render_of_none hb frac val,
      exec_render_of_none (s := s.respond _) hb frac val, rfl, rfl⟩
  | some b =>
    obtain ⟨t, ht, hbuf, ⟨-, -, hcfg, -⟩, -⟩ := exec_render_paints hb frac val
    obtain ⟨t', ht', hbuf', ⟨-, -, hcfg', -⟩, -⟩ := exec_render_paints (hcfg ▸ hb) frac val
    have hsame : t'.buf = t.buf := by rw [hbuf', hbuf, hcfg, paintValue_idem]
    exact ⟨t, t', ht, ht', by rw [hcfg', hsame], hsame⟩

/-- Settles O45: the loop finds no `f`, and the error pattern keeps the colon cell. -/
theorem fixedPointOverflowPaintsTheErrorPattern : Obligations.FixedPointOverflowPaintsTheErrorPattern := by
  intro frac base val s hbase hvariant hover
  obtain ⟨b, hb⟩ := exists_baseOf_of_isBase s.cfg hbase
  obtain rfl := radix_baseOf hb
  rcases reduceFrac_closed_form s.cfg val b frac with ⟨f, -, hfits, -⟩ | ⟨hnone, -⟩
  · exact absurd hfits hover.not_gt
  · obtain ⟨t, ht, hbuf, hrest⟩ := exec_render_paints hb frac val
    rw [paintValue_of_variant_a hvariant, renderA_of_none hnone, Buf.errorPattern_eq] at hbuf
    refine ⟨t, ht, ?_, ?_, ?_, ?_, ?_, hrest⟩ <;> rw [hbuf]

/-- Settles O46: the loop's `f`, quotient and digit count are the closed form's, and every cell is painted once. -/
theorem fixedPointCellsAreTheClosedForm : Obligations.FixedPointCellsAreTheClosedForm := by
  intro frac base val s hbase hvariant hfits
  obtain ⟨b, hb⟩ := exists_baseOf_of_isBase s.cfg hbase
  obtain rfl := radix_baseOf hb
  rcases reduceFrac_closed_form s.cfg val b frac with ⟨f, hf, -, hgreatest⟩ | ⟨-, hover⟩
  · obtain ⟨t, ht, hbuf, -⟩ := exec_render_paints hb frac val
    rw [paintValue_of_variant_a hvariant, renderA_of_some hf] at hbuf
    refine ⟨f, scaledFloor s.cfg (valueMag val) (radix b) f, _, _, t, hgreatest, ?_,
      isLeast_ndigits (radix_bounds b).1 _, rfl, ht, fun i hi => ?_⟩
    · rw [scaledFloor_eq_floor, Int.natCast_floor_eq_floor (by positivity)]
    · simp only [hbuf, get_paintNumber _ _ hi, cellOf_eq, dotAt_iff, valueNeg_iff]
      rfl
  · exact absurd hfits hover.not_gt

/-- Settles O52: either variant right-aligns the digits, and the table tells them apart and from a blank. -/
theorem renderedIntegersReadBack : Obligations.RenderedIntegersReadBack := by
  intro b v s hdistinct hnotBlank hv
  obtain ⟨hb, hb16⟩ := radix_bounds b
  have hfits : IntegerFits b v := .inl ⟨Int.natCast_nonneg v, by exact_mod_cast hv⟩
  obtain ⟨t, ht, hcells, -⟩ := exec_render_integer s hfits
  refine ⟨t, ht, ?_⟩
  rw [hcells]
  exact digitsShown_integerCells hdistinct hnotBlank hb hb16 v

/-- Settles O53: the cells of an integer that fits do not depend on the strap, and neither variant writes the colon. -/
theorem variantsAgreeOnIntegersThatFit : Obligations.VariantsAgreeOnIntegersThatFit := by
  intro b v s hfits
  obtain ⟨t, ht, hcellsA, hcolonA⟩ := exec_render_integer { s with cfg := { s.cfg with variant := .a } } hfits
  obtain ⟨u, hu, hcellsB, hcolonB⟩ := exec_render_integer { s with cfg := { s.cfg with variant := .b } } hfits
  exact ⟨t, u, ht, hu, Buf.ext_digitCells (hcellsA.trans hcellsB.symm) (hcolonA.trans hcolonB.symm)⟩

end Sys2Proof.Proofs.RenderARules
end

section
/-! SUPPORT. Variant B's text as a sign, whole digits and decimal places, and how many of them there are
(spec/43_render_b.md R181 to R184, spec/70_reset_and_hazards.md R282). -/

namespace Sys2Proof.Machine

/-! ### The digits of the text -/

theorem digitsPadded_eq {b : Nat} (hb : 2 ≤ b) (N width : Nat) :
    digitsPadded b N width =
      (List.replicate (width - (Nat.digits b N).length) 0 ++ (Nat.digits b N).reverse).map (Fin.ofNat 16) := by
  rw [digitsPadded, digitsLow_eq hb N N le_rfl, List.length_map, List.map_append, List.map_replicate, List.map_reverse]
  rfl

theorem length_digitsPadded {b : Nat} (hb : 2 ≤ b) (N width : Nat) :
    (digitsPadded b N width).length = max width (Nat.digits b N).length := by
  rw [digitsPadded_eq hb, List.length_map, List.length_append, List.length_replicate, List.length_reverse]
  omega

/-- A number below `b^k` is padded to no more than `k` digits, unless more are asked for. -/
theorem length_digitsPadded_le {b N width k : Nat} (hb : 2 ≤ b) (hN : N < b ^ k) (hwidth : width ≤ k) :
    (digitsPadded b N width).length ≤ k := by
  rw [length_digitsPadded hb]
  exact max_le hwidth ((Nat.digits_length_le_iff (by omega) N).2 hN)

/-- The whole part in units of `2^-32` is the rational floor of 43 R182. -/
theorem valueMag_div_eq_floor (val : ValWord) : valueMag val / 2 ^ 32 = ⌊|valueOf val|⌋₊ := by
  have hquot : |valueOf val| = (valueMag val : ℚ) / (2 ^ 32 : Nat) := by rw [abs_valueOf]; norm_num
  rw [hquot, Nat.floor_div_eq_div]

/-! ### The text by its parts -/

/-- A sign, whole digits and, where there are decimal places, a point and the places (43 R181 to R183). -/
def numberText (neg : Bool) (whole places : List (Fin 16)) : List TextChar :=
  (if neg then [.minus] else []) ++
    (whole.map .digit ++ if places = [] then [] else .point :: places.map .digit)

/-- The digits of the rounded number in base 10, the places among them (43 R181). -/
def decimalDigits (cfg : Config) (m frac : Nat) : List (Fin 16) :=
  digitsPadded 10 (scaledFloor cfg m 10 frac) (frac + 1)

/-- The digits before the point (43 R181, R182). -/
def wholeDigits (cfg : Config) (m frac b : Nat) : List (Fin 16) :=
  if b = 10 then (decimalDigits cfg m frac).take ((decimalDigits cfg m frac).length - frac)
  else digitsPadded b (m / 2 ^ 32) 1

/-- The digits after the point, in base 10 alone (43 R181, R182). -/
def placeDigits (cfg : Config) (m frac b : Nat) : List (Fin 16) :=
  if b = 10 then (decimalDigits cfg m frac).drop ((decimalDigits cfg m frac).length - frac) else []

theorem lt_length_decimalDigits (cfg : Config) (m frac : Nat) : frac < (decimalDigits cfg m frac).length := by
  rw [decimalDigits, length_digitsPadded (by omega)]
  exact lt_max_of_lt_left (Nat.lt_succ_self frac)

theorem length_placeDigits_dec (cfg : Config) (m frac : Nat) : (placeDigits cfg m frac 10).length = frac := by
  have hlen := lt_length_decimalDigits cfg m frac
  rw [placeDigits, if_pos rfl, List.length_drop]
  omega

theorem placeDigits_of_ne_ten (cfg : Config) (m frac : Nat) {b : Nat} (hb : b ≠ 10) : placeDigits cfg m frac b = [] :=
  if_neg hb

/-- There is always a digit before the point (43 R181, R182). -/
theorem wholeDigits_ne_nil (cfg : Config) (m frac : Nat) {b : Nat} (hb : 2 ≤ b) : wholeDigits cfg m frac b ≠ [] := by
  rw [← List.length_pos_iff, wholeDigits]
  split
  · have hlen := lt_length_decimalDigits cfg m frac
    rw [List.length_take]
    omega
  · rw [length_digitsPadded hb]
    omega

theorem formatB_eq_numberText (cfg : Config) (neg : Bool) (m frac b : Nat) :
    formatB cfg neg m frac b = numberText neg (wholeDigits cfg m frac b) (placeDigits cfg m frac b) := by
  rw [formatB, numberText]
  congr 1
  by_cases hb : b = 10
  · subst hb
    have hplaces : placeDigits cfg m frac 10 = [] ↔ frac = 0 := by
      rw [← List.length_eq_zero_iff, length_placeDigits_dec]
    rw [if_pos rfl, formatDec]
    split
    · rename_i hfrac
      rw [if_pos (hplaces.2 hfrac), wholeDigits, if_pos rfl]
      subst hfrac
      simp [decimalDigits]
    · rename_i hfrac
      rw [if_neg (fun h => hfrac (hplaces.1 h)), wholeDigits, placeDigits, if_pos rfl, if_pos rfl, List.map_take,
        List.map_drop, List.length_map]
      rfl
  · rw [if_neg hb, placeDigits_of_ne_ten cfg m frac hb, wholeDigits, if_neg hb, formatInt, Config.params_eq,
      Params.spec_valueFracBits]
    simp

/-! ### The shape of a text by its parts -/

section
variable (neg : Bool) (whole places : List (Fin 16))

theorem mem_numberText_iff {c : TextChar} :
    c ∈ numberText neg whole places ↔
      (neg = true ∧ c = .minus) ∨ c ∈ whole.map .digit ∨ places ≠ [] ∧ (c = .point ∨ c ∈ places.map .digit) := by
  rw [numberText, List.mem_append, List.mem_append, List.mem_ite_nil_right, List.mem_ite_nil_left, List.mem_singleton,
    List.mem_cons]

theorem other_not_mem_numberText : TextChar.other ∉ numberText neg whole places := by
  simp [mem_numberText_iff]

theorem point_mem_numberText_iff : TextChar.point ∈ numberText neg whole places ↔ places ≠ [] := by
  simp [mem_numberText_iff]

/-- What follows the sign, or the first digit where there is no sign, is part of an unsigned text. -/
theorem minus_not_mem_drop_numberText : TextChar.minus ∉ (numberText neg whole places).drop 1 := by
  have hunsigned : TextChar.minus ∉ numberText false whole places := by simp [mem_numberText_iff]
  cases neg with
  | false => exact fun h => hunsigned (List.mem_of_mem_drop h)
  | true => exact hunsigned

theorem count_point_map_digit (ds : List (Fin 16)) : (ds.map TextChar.digit).count .point = 0 :=
  List.count_eq_zero.2 (by simp)

theorem count_point_numberText : (numberText neg whole places).count .point = if places = [] then 0 else 1 := by
  have hsign : (if neg then [TextChar.minus] else []).count .point = 0 := by cases neg <;> rfl
  rw [numberText, List.count_append, List.count_append, hsign, count_point_map_digit]
  split
  · rfl
  · rw [List.count_cons_self, count_point_map_digit]

theorem length_sign_le : (if neg then [TextChar.minus] else []).length ≤ 1 := by cases neg <;> decide

theorem length_numberText_nil_le : (numberText neg whole []).length ≤ 1 + whole.length := by
  have hsign := length_sign_le neg
  rw [numberText, if_pos rfl, List.append_nil, List.length_append, List.length_map]
  omega

theorem length_numberText_le : (numberText neg whole places).length ≤ 1 + whole.length + 1 + places.length := by
  have hsign := length_sign_le neg
  have hpoint : (if places = [] then [] else TextChar.point :: places.map .digit).length ≤ 1 + places.length := by
    split
    · exact Nat.zero_le _
    · rw [List.length_cons, List.length_map, Nat.add_comm]
  rw [numberText, List.length_append, List.length_append, List.length_map]
  omega

variable {whole}

theorem head?_numberText_ne_point (hwhole : whole ≠ []) : (numberText neg whole places).head? ≠ some .point := by
  obtain ⟨d, ds, rfl⟩ := List.exists_cons_of_ne_nil hwhole
  cases neg <;> simp [numberText]

variable {places} in
theorem getLast?_numberText_ne_point (hplaces : places ≠ []) :
    (numberText neg whole places).getLast? ≠ some .point := by
  obtain ⟨ds, d, rfl⟩ := (List.eq_nil_or_concat' places).resolve_left hplaces
  simp [numberText, List.getLast?_cons]

end

/-! ### How long the text can be -/

theorem valueMag_le (val : ValWord) : valueMag val ≤ 2 ^ 63 := by
  have hlow := BitVec.le_toInt val
  have hhigh := BitVec.toInt_lt (x := val)
  rw [valueMag]
  omega

/-- A magnitude is at most `2^31`, below `10^10`, so rounding to `f` places stays below `10^(f + 10)`. -/
theorem scaledFloor_dec_lt (cfg : Config) {m : Nat} (hm : m ≤ 2 ^ 63) (f : Nat) :
    scaledFloor cfg m 10 f < 10 ^ (f + 10) := by
  have hscaled : m * 10 ^ f ≤ 2 ^ 63 * 10 ^ f := Nat.mul_le_mul_right _ hm
  have hpos : 0 < 10 ^ f := by positivity
  rw [scaledFloor_eq, pow_add]
  omega

theorem length_wholeDigits_dec_le (cfg : Config) {m : Nat} (hm : m ≤ 2 ^ 63) (frac : Nat) :
    (wholeDigits cfg m frac 10).length ≤ 10 := by
  have hdigits : (decimalDigits cfg m frac).length ≤ frac + 10 :=
    length_digitsPadded_le (by omega) (scaledFloor_dec_lt cfg hm frac) (by omega)
  rw [wholeDigits, if_pos rfl, List.length_take]
  omega

theorem length_wholeDigits_bin_le (cfg : Config) {m : Nat} (hm : m ≤ 2 ^ 63) (frac : Nat) :
    (wholeDigits cfg m frac 2).length ≤ 32 :=
  length_digitsPadded_le le_rfl (by omega) (by omega)

theorem length_formatB_dec_le (cfg : Config) (neg : Bool) {m : Nat} (hm : m ≤ 2 ^ 63) (frac : Nat) :
    (formatB cfg neg m frac 10).length ≤ 1 + 10 + 1 + frac := by
  have hwhole := length_wholeDigits_dec_le cfg hm frac
  have hplaces := length_placeDigits_dec cfg m frac
  have htext := length_numberText_le neg (wholeDigits cfg m frac 10) (placeDigits cfg m frac 10)
  rw [formatB_eq_numberText]
  omega

theorem length_formatB_bin_le (cfg : Config) (neg : Bool) {m : Nat} (hm : m ≤ 2 ^ 63) (frac : Nat) :
    (formatB cfg neg m frac 2).length ≤ 1 + 32 := by
  have hwhole := length_wholeDigits_bin_le cfg hm frac
  have htext := length_numberText_nil_le neg (wholeDigits cfg m frac 2)
  rw [formatB_eq_numberText, placeDigits_of_ne_ten cfg m frac (by decide)]
  omega

end Sys2Proof.Machine
end

section
/-! SUPPORT. Variant B's scan slot by slot, and its paint (spec/43_render_b.md R185 to R190). -/

namespace Sys2Proof.Machine

/-! ### The characters -/

theorem slotChars_cons {c : TextChar} (hc : c ≠ .point) (text : List TextChar) :
    slotChars (c :: text) = c :: slotChars text :=
  List.filter_cons_of_pos (bne_iff_ne.2 hc)

theorem pointAfter_cons_zero {c : TextChar} (hc : c ≠ .point) (text : List TextChar) :
    pointAfter (c :: text) 0 = false := by
  cases c with
  | point => exact absurd rfl hc
  | _ => rfl

theorem pointAfter_cons_succ {c : TextChar} (hc : c ≠ .point) (text : List TextChar) (k : Nat) :
    pointAfter (c :: text) (k + 1) = pointAfter text k := by
  cases c with
  | point => exact absurd rfl hc
  | _ => rfl

/-- The pre-scan counts the characters that are neither points nor "other" ones (43 R185). -/
theorem padOf_eq_filter (cfg : Config) (text : List TextChar) :
    padOf cfg text = 4 - (text.filter (fun c => c != .point && c != .other)).length := by
  have hmeaningful : isMeaningful = fun c => c != .point && c != .other := by
    funext c
    cases c <;> rfl
  rw [padOf_eq, List.countP_eq_length_filter, hmeaningful]

/-! ### One character of the scan -/

/-- Any character but a point fills the next slot, or ends the scan where there is none (43 R186). -/
theorem scan_cons (cfg : Config) (pad : Nat) {c : TextChar} (hc : c ≠ .point) (text : List TextChar) (p : Nat)
    (out : List Mask) :
    scan cfg pad (c :: text) p out =
      if p = 4 then out else scan cfg pad text (p + 1) (out.set p (charMask cfg c)) := by
  cases c with
  | point => exact absurd rfl hc
  | _ => rw [scan, Config.params_eq, Params.spec_numDigits]

/-- The dot of the `e`-th filled slot, if a point follows it (43 R188). -/
def slotDot (e : Nat) (point : Bool) : Mask := if e ≤ 1 ∧ point = true then 0x80 else 0x00

@[simp] theorem slotDot_false (e : Nat) : slotDot e false = 0x00 := by simp [slotDot]

theorem length_placePoint (cfg : Config) (pad p : Nat) (out : List Mask) :
    (placePoint cfg pad p out).length = out.length := by
  rw [placePoint]
  split
  · exact List.length_modify ..
  · rfl

/-- A point leaves every slot but the one filled last, and the padding (43 R188). -/
theorem getElem?_placePoint_of_ne (cfg : Config) {pad p j : Nat} (h : j < pad ∨ j + 1 ≠ p) (out : List Mask) :
    (placePoint cfg pad p out)[j]? = out[j]? := by
  rw [placePoint]
  split
  · have hne : p - 1 ≠ j := by omega
    exact List.getElem?_modify_ne _ _ hne
  · rfl

/-- A point puts its dot on the slot filled last, if that is the first or the second one (43 R188). -/
theorem getElem?_placePoint_last (cfg : Config) {pad j : Nat} (h : pad ≤ j) (out : List Mask) :
    (placePoint cfg pad (j + 1) out)[j]? = out[j]?.map (· ||| slotDot (j - pad) true) := by
  rw [placePoint, dotMask_eq, slotDot]
  by_cases hgate : j - pad ≤ 1
  · rw [if_pos (by omega), if_pos ⟨hgate, rfl⟩, Nat.add_sub_cancel, List.getElem?_modify_eq]
    rfl
  · rw [if_neg (by omega), if_neg (fun hdot => hgate hdot.1)]
    simp

theorem slotDot_or_self (e : Nat) (point : Bool) (m : Mask) :
    m ||| slotDot e true ||| slotDot e point = m ||| slotDot e true := by
  cases point
  · simp
  · rw [BitVec.or_assoc, BitVec.or_self]

/-! ### One slot of the scan -/

section
variable (cfg : Config) {pad : Nat}

/-- The padding and every filled slot but the last keep what they hold. -/
theorem getElem?_scan_of_filled (text : List TextChar) {p j : Nat} (hpad : pad ≤ p) (hj : j < pad ∨ j + 1 < p)
    (out : List Mask) : (scan cfg pad text p out)[j]? = out[j]? := by
  induction text generalizing p out with
  | nil => rfl
  | cons c text ih =>
    by_cases hc : c = .point
    · subst hc
      rw [scan, ih hpad hj, getElem?_placePoint_of_ne cfg (by omega)]
    · rw [scan_cons cfg pad hc]
      split
      · rfl
      · rw [ih (by omega) (by omega), List.getElem?_set_ne (by omega)]

/-- The slot filled last can still get its dot, while the points of the text come first. -/
theorem getElem?_scan_last_filled (text : List TextChar) {j : Nat} (hpad : pad ≤ j) (out : List Mask) :
    (scan cfg pad text (j + 1) out)[j]? = out[j]?.map (· ||| slotDot (j - pad) (pointAfter text 0)) := by
  induction text generalizing out with
  | nil => simp [scan, pointAfter]
  | cons c text ih =>
    by_cases hc : c = .point
    · subst hc
      rw [scan, ih, getElem?_placePoint_last cfg hpad, Option.map_map]
      exact congrArg (Option.map · out[j]?) (funext fun m => slotDot_or_self ..)
    · rw [scan_cons cfg pad hc, pointAfter_cons_zero hc]
      split
      · simp
      · rw [getElem?_scan_of_filled cfg text (by omega) (by omega), List.getElem?_set_ne (by omega)]
        simp

/-- The `k`-th slot still to fill gets the `k`-th slot-filling character and its dot, or stays where the text has no
such character. -/
theorem getElem?_scan_unfilled (text : List TextChar) {p k : Nat} (hpad : pad ≤ p) (hk : p + k < 4)
    {out : List Mask} (hout : out.length = 4) :
    (scan cfg pad text p out)[p + k]? =
      ((slotChars text)[k]?.map fun c => charMask cfg c ||| slotDot (p + k - pad) (pointAfter text (k + 1))).or
        out[p + k]? := by
  induction text generalizing p k out with
  | nil => rfl
  | cons c text ih =>
    by_cases hc : c = .point
    · subst hc
      rw [scan, ih hpad hk (by rw [length_placePoint, hout]), getElem?_placePoint_of_ne cfg (by omega)]
      rfl
    · rw [scan_cons cfg pad hc, if_neg (by omega), slotChars_cons hc, pointAfter_cons_succ hc]
      cases k with
      | zero => simp [getElem?_scan_last_filled cfg text hpad, hout, show p < 4 by omega]
      | succ k =>
        rw [show p + (k + 1) = p + 1 + k by omega, ih (by omega) (by omega) (by rw [List.length_set, hout]),
          List.getElem?_set_ne (by omega)]
        rfl

end

/-! ### The four masks and their paint -/

theorem scanB_eq (cfg : Config) (text : List TextChar) :
    scanB cfg text = scan cfg (padOf cfg text) text (padOf cfg text) (List.replicate 4 0x00) := by
  rw [scanB, Config.params_eq]
  rfl

theorem length_scanB (cfg : Config) (text : List TextChar) : (scanB cfg text).length = 4 := by
  rw [scanB_eq, scan_length, List.length_replicate]

theorem getElem?_scanB_pad (cfg : Config) {text : List TextChar} {j : Nat} (hj : j < 4) (hpad : j < padOf cfg text) :
    (scanB cfg text)[j]? = some 0x00 := by
  rw [scanB_eq, getElem?_scan_of_filled cfg text le_rfl (.inl hpad), List.getElem?_replicate_of_lt hj]

theorem getElem?_scanB (cfg : Config) {text : List TextChar} {j : Nat} (hj : j < 4) (hpad : padOf cfg text ≤ j) :
    (scanB cfg text)[j]? = some (((slotChars text)[j - padOf cfg text]?.map fun c =>
      charMask cfg c ||| slotDot (j - padOf cfg text) (pointAfter text (j - padOf cfg text + 1))).getD 0x00) := by
  have hslot := getElem?_scan_unfilled cfg text (p := padOf cfg text) (k := j - padOf cfg text) le_rfl (by omega)
    (List.length_replicate (n := 4) (a := (0x00 : Mask)))
  rw [Nat.add_sub_cancel' hpad, List.getElem?_replicate_of_lt hj, Option.or_some] at hslot
  rw [scanB_eq, hslot]

theorem paintValue_of_variant_b {cfg : Config} (h : cfg.variant = .b) (val : ValWord) (frac : Nat) (b : Base)
    (buf : Buf) :
    paintValue cfg val frac b buf = renderB cfg (valueNeg val) (valueMag val) frac (radix b) buf := by
  rw [paintValue, h]

theorem get_eq_getElem?_digitCells (buf : Buf) {q : Nat} (hq : q ≤ 3) : some (buf.get q) = (digitCells buf)[q]? := by
  interval_cases q <;> rfl

/-- The digit cells are the scan of the text, zero-extended (43 R190). -/
theorem digitCells_renderB (cfg : Config) (neg : Bool) (m frac b : Nat) (buf : Buf) :
    digitCells (renderB cfg neg m frac b buf) = (scanB cfg (formatB cfg neg m frac b)).map (·.setWidth 16) := by
  rw [renderB, digitCells_paintImage cfg (length_scanB ..)]

end Sys2Proof.Machine
end

section
/-! The statements of spec/43_render_b.md. -/

namespace Sys2Proof.Proofs.RenderBRules

open Sys2Proof.Machine

/-- Settles O48: the model's loops give the digits of the rational floors, and the sign is that of the value. -/
theorem stringVariantFormatsTheNumber : Obligations.StringVariantFormatsTheNumber := by
  intro cfg frac b val sign chars places digits body
  have hdigits : (digitsPadded 10 (scaledFloor cfg (valueMag val) 10 frac) (frac + 1)).map TextChar.digit = digits := by
    rw [digitsPadded_eq (by omega), scaledFloor_eq_floor, List.map_map]
    simp only [digits, places, chars, List.length_reverse]
    rfl
  have hint : formatInt cfg (valueMag val) (radix b) = chars (digitText (radix b) ⌊|valueOf val|⌋₊) := by
    rw [formatInt, Config.params_eq, Params.spec_valueFracBits, valueMag_div_eq_floor,
      digitsPadded_one (radix_bounds b).1, List.map_map]
    rfl
  simp only [formatB, formatDec, hdigits, hint, valueNeg_iff]
  rfl

/-- Settles O49: the text is a sign, at least one digit, and in base 10 a point with its places, of bounded lengths. -/
theorem stringVariantTextIsWellShaped : Obligations.StringVariantTextIsWellShaped := by
  intro cfg frac b val hfrac text
  have htext : text = numberText _ _ _ := formatB_eq_numberText ..
  refine ⟨?_, ?_, ?_, fun hpoint => ?_, ?_, ?_⟩
  · rw [htext]
    exact other_not_mem_numberText _ _ _
  · rw [htext]
    exact minus_not_mem_drop_numberText _ _ _
  · rw [htext, count_point_numberText]
    split <;> omega
  · rw [htext] at hpoint ⊢
    have hplaces := (point_mem_numberText_iff ..).1 hpoint
    have hwhole := wholeDigits_ne_nil cfg (valueMag val) frac (radix_bounds b).1
    refine ⟨?_, head?_numberText_ne_point _ _ hwhole, getLast?_numberText_ne_point _ hplaces⟩
    cases b with
    | dec => rfl
    | _ => exact absurd (placeDigits_of_ne_ten _ _ _ (by decide)) hplaces
  · rintro rfl
    have hlen := length_formatB_dec_le cfg (valueNeg val) (valueMag_le val) frac
    exact hlen.trans (by omega)
  · rintro rfl
    exact length_formatB_bin_le cfg (valueNeg val) (valueMag_le val) frac

/-- Settles O50: a slot before the padding's end stays blank, and slot `pad + e` gets the `e`-th slot-filling character,
whose dot is placed before the next one is met. -/
theorem stringVariantScanFillsFourSlots : Obligations.StringVariantScanFillsFourSlots := by
  intro cfg text j hj pad
  have hpad : padOf cfg text = pad := padOf_eq_filter cfg text
  split
  · exact getElem?_scanB_pad cfg hj (by omega)
  · rw [getElem?_scanB cfg hj (by omega), hpad]
    cases (slotChars text)[j - pad]? with
    | none => rfl
    | some c =>
      simp only [Option.map_some, Option.getD_some, slotDot]
      cases c <;> simp [charMask, glyph]

/-- Settles O51: Variant B's repaint is the scan zero-extended, and RENDER pushes it. -/
theorem stringVariantPaintsTheScan : Obligations.StringVariantPaintsTheScan := by
  intro frac b val s hvariant
  obtain ⟨t, ht, hbuf, hcontrol, hpush⟩ := exec_render_paints (baseOf_radix s.cfg b) frac val
  refine ⟨t, ht, fun q hq => ?_, ?_, hcontrol, hpush⟩
  · rw [hbuf, get_eq_getElem?_digitCells _ hq, paintValue_of_variant_b hvariant, digitCells_renderB, List.getElem?_map]
  · rw [hbuf, colon_paintValue]

end Sys2Proof.Proofs.RenderBRules
end

section
/-! SUPPORT. The command bytes by their operand, BEGIN by the answers its writes get, what a run of writes leaves of the
state, what WR_CHAR does by its character, and a command begun in another Facade state (spec/44_facade.md). -/

namespace Sys2Proof.Machine

/-! ### The command bytes -/

theorem brightnessByte_eq (level : Nat) :
    brightnessByte level = BitVec.ofNat 8 (0xE0 + if level ≤ 15 then level else 15) := by
  have hmin : min level brightnessMax = if level ≤ 15 then level else 15 := Nat.min_def ..
  have hle : (if level ≤ 15 then level else 15) ≤ 15 := by split <;> omega
  rw [brightnessByte, hmin]
  generalize (if level ≤ 15 then level else 15) = n at hle
  interval_cases n <;> rfl

theorem blinkByte_eq (rate : Nat) :
    blinkByte rate = if rate = 1 then 0x83 else if rate = 2 then 0x85 else if rate = 3 then 0x87 else 0x81 := by
  by_cases hcoerced : 3 < rate
  · have hoff : blinkCode rate = 0 := if_pos hcoerced
    rw [blinkByte, hoff, if_neg (by omega), if_neg (by omega), if_neg (by omega)]
    rfl
  · interval_cases rate <;> rfl

/-! ### BEGIN, by the answers its writes get -/

theorem andThen_cmd1_of_accepted {s : State} (h : s.nextAnswer = .ok) (b : Byte) (k : State → Progress) :
    andThen (cmd1 b s) k = k (s.memWrite [b]) := by
  rw [cmd1_eq, h]
  exact andThen_of_ok rfl k

theorem andThen_cmd1_of_failed {s : State} (h : s.nextAnswer = .fail) (b : Byte) (k : State → Progress) :
    andThen (cmd1 b s) k = raise .transportFailure (s.memWrite [b]) := by
  rw [cmd1_eq, h]
  exact andThen_of_raised (show Status.transportFailure ≠ .ok from nofun) k

/-- The three bytes of BEGIN, written out. -/
theorem exec_begin_eq (s : State) :
    exec .facadeBegin s = finish false (
      andThen (cmd1 0x21 s) fun s₁ => andThen (cmd1 0x81 s₁) fun s₂ => andThen (cmd1 0xEF s₂) fun s₃ =>
        proceed (s₃.setFstate .active)) := rfl

section
variable {s : State}

theorem exec_begin_of_first_failed (h₁ : s.nextAnswer = .fail) :
    exec .facadeBegin s = finish false (raise .transportFailure (s.memWrite [0x21])) := by
  rw [exec_begin_eq, andThen_cmd1_of_failed h₁]

variable (h₁ : s.nextAnswer = .ok)
include h₁

theorem exec_begin_of_second_failed (h₂ : (s.memWrite [0x21]).nextAnswer = .fail) :
    exec .facadeBegin s = finish false (raise .transportFailure ((s.memWrite [0x21]).memWrite [0x81])) := by
  rw [exec_begin_eq, andThen_cmd1_of_accepted h₁, andThen_cmd1_of_failed h₂]

variable (h₂ : (s.memWrite [0x21]).nextAnswer = .ok)
include h₂

theorem exec_begin_of_third_failed (h₃ : ((s.memWrite [0x21]).memWrite [0x81]).nextAnswer = .fail) :
    exec .facadeBegin s =
      finish false (raise .transportFailure (((s.memWrite [0x21]).memWrite [0x81]).memWrite [0xEF])) := by
  rw [exec_begin_eq, andThen_cmd1_of_accepted h₁, andThen_cmd1_of_accepted h₂, andThen_cmd1_of_failed h₃]

theorem exec_begin_of_accepted (h₃ : ((s.memWrite [0x21]).memWrite [0x81]).nextAnswer = .ok) :
    exec .facadeBegin s =
      finish false (proceed ((((s.memWrite [0x21]).memWrite [0x81]).memWrite [0xEF]).setFstate .active)) := by
  rw [exec_begin_eq, andThen_cmd1_of_accepted h₁, andThen_cmd1_of_accepted h₂, andThen_cmd1_of_accepted h₃]

end

/-! ### A run of transport writes -/

/-- From `s` to `u` the writes `ws` were handed to the transport, each taking one answer, and nothing else changed but
the device image, of which this says nothing. -/
def Sent (ws : List Transfer) (s u : State) : Prop :=
  u.buf = s.buf ∧ SameControl s u ∧ u.responses = s.responses ∧ u.trace = s.trace ++ ws ∧
    u.answers = s.answers.drop ws.length ∧ u.free = s.free + ws.length

theorem sent_nil (s : State) : Sent [] s s :=
  ⟨rfl, ⟨rfl, rfl, rfl, rfl⟩, rfl, (List.append_nil _).symm, rfl, rfl⟩

theorem Sent.memWrite {ws : List Transfer} {s u : State} (h : Sent ws s u) {a : Answer} (ha : u.nextAnswer = a)
    (bytes : List Byte) : Sent (ws ++ [⟨s.cfg.devAddr, bytes, a⟩]) s (u.memWrite bytes) := by
  obtain ⟨hbuf, ⟨hcursor, hfstate, hcfg, hhost⟩, hresponses, htrace, hanswers, hfree⟩ := h
  refine ⟨hbuf, ⟨hcursor, hfstate, hcfg, hhost⟩, hresponses, ?_, ?_, ?_⟩
  · rw [State.memWrite_trace, htrace, hcfg, ha, List.append_assoc]
  · rw [State.memWrite_answers, hanswers, List.tail_drop, List.length_append, List.length_singleton]
  · rw [State.memWrite_free, hfree, List.length_append, List.length_singleton, Nat.add_assoc]

/-- A command that ends at a write answered `fail`: that write is its last, and no byte of the device image is known. -/
theorem finish_raise_failed {ws : List Transfer} {s u : State} {bytes : List Byte}
    (h : Sent ws s (u.memWrite bytes)) (hfail : u.nextAnswer = .fail) :
    ∃ t, finish false (raise .transportFailure (u.memWrite bytes)) = .next t ∧ t.buf = s.buf ∧ SameControl s t ∧
      t.trace = s.trace ++ ws ∧ t.answers = s.answers.drop ws.length ∧ t.free = s.free + ws.length ∧ t.device = [] ∧
      Reported false .transportFailure s t := by
  obtain ⟨hbuf, hcontrol, hresponses, htrace, hanswers, hfree⟩ := h
  refine ⟨_, finish_eq _ _, hbuf, hcontrol, htrace, hanswers, hfree, ?_, congrArg (· ++ [_]) hresponses⟩
  rw [State.respond_device, raise_state, State.memWrite_device, hfail, deviceAfter_fail]

/-- An accepted single byte other than display-off keeps the device image (log entry 8). -/
theorem device_memWrite_of_accepted {s : State} (h : s.nextAnswer = .ok) {b : Byte} (hoff : b ≠ 0x80) :
    (s.memWrite [b]).device = s.device := by
  rw [State.memWrite_device, h, deviceAfter_cmd1, if_neg hoff, ite_self]

/-! ### WR_CHAR, by its character -/

theorem isNewline_iff (code : Nat) : isNewline code = true ↔ code = 0x0A ∨ code = 0x0D := by
  rw [isNewline, Bool.or_eq_true, beq_iff_eq, beq_iff_eq]
  rfl

theorem isDigitChar_iff (code : Nat) : isDigitChar code = true ↔ 0x30 ≤ code ∧ code ≤ 0x39 := by
  rw [isDigitChar, Bool.and_eq_true, decide_eq_true_eq, decide_eq_true_eq]
  rfl

theorem charDigit_digitChar (d : Fin 10) : charDigit (0x30 + d.val) = d.castLE (by decide) := by
  revert d
  decide

theorem exec_wrChar_of_newline {code : Nat} (h : isNewline code = true) (p : Bool) (s : State) :
    exec (.wrChar p code) s = finish true (pushIf p (s.setCursor 0)) := by
  rw [exec, execWrChar, charWritten, charBody, if_pos h, h, Bool.true_or]

theorem exec_wrChar_of_digitChar (p : Bool) (d : Fin 10) (s : State) :
    exec (.wrChar p (0x30 + d.val)) s =
      finish true (pushIf p ((s.cellWrite (s.cursor.toNat : Int)
        (cellOf s.cfg (glyph s.cfg.glyph (d.castLE (by decide))) false)).setCursor (advanceCursor s.cfg s.cursor))) := by
  rw [exec, execWrChar, charWritten_digitChar, charBody_digitChar, charDigit_digitChar]

theorem exec_wrChar_of_other {code : Nat} (hnewline : ¬ isNewline code = true) (hdigit : ¬ isDigitChar code = true)
    (p : Bool) (s : State) : exec (.wrChar p code) s = finish false (pushIf p s) := by
  rw [exec, execWrChar, charWritten, charBody, if_neg hnewline, if_neg hdigit, Bool.eq_false_of_not_eq_true hnewline,
    Bool.eq_false_of_not_eq_true hdigit, Bool.or_self]

/-! ### A command begun in another Facade state -/

/-- Two runs complete, and the second ends as the first but in the Facade state `f`. -/
def AlikeBut (f : FState) (x y : Host.Outcome State Fault Refusal) : Prop :=
  ∃ t, x = .next t ∧ y = .next (t.setFstate f)

section
variable (w : Bool) (u : State) (f : FState)

theorem alikeBut_finish_pushIf (p : Bool) :
    AlikeBut f (finish w (pushIf p u)) (finish w (pushIf p (u.setFstate f))) := by
  cases p
  · exact ⟨_, rfl, rfl⟩
  · rw [pushIf_true, pushIf_true, push_eq, push_eq]
    exact ⟨_, rfl, rfl⟩

theorem alikeBut_finish_cmd1 (b : Byte) : AlikeBut f (finish w (cmd1 b u)) (finish w (cmd1 b (u.setFstate f))) := by
  rw [cmd1_eq, cmd1_eq]
  exact ⟨_, rfl, rfl⟩

theorem alikeBut_finish_raise (e : Status) :
    AlikeBut f (finish w (raise e u)) (finish w (raise e (u.setFstate f))) := ⟨_, rfl, rfl⟩

end

theorem charBody_setFstate (code : Nat) (s : State) (f : FState) :
    charBody code (s.setFstate f) = (charBody code s).setFstate f := by
  unfold charBody
  split
  · rfl
  · split
    · rfl
    · rfl

theorem row_ne_facadeBegin {i : Instr} (hi : i ≠ .facadeBegin) : i.row ≠ .facadeBegin := by
  cases i with
  | facadeBegin => exact absurd rfl hi
  | _ => exact nofun

/-- No command but BEGIN reads the Facade state or writes it. -/
theorem alikeBut_exec {i : Instr} (hi : i ≠ .facadeBegin) (s : State) (f : FState) :
    AlikeBut f (exec i s) (exec i (s.setFstate f)) := by
  cases i with
  | wrDigit p dot pos mask => exact alikeBut_finish_pushIf _ _ f p
  | wrGlyph p dot pos digit =>
    by_cases hd : digit < 16
    · rw [exec_wrGlyph_of_lt _ _ _ hd, exec_wrGlyph_of_lt _ _ _ hd]
      exact alikeBut_finish_pushIf _ _ f p
    · rw [exec_wrGlyph_of_not_lt _ _ _ hd, exec_wrGlyph_of_not_lt _ _ _ hd]
      exact alikeBut_finish_raise _ s f _
  | wrColon p on => exact alikeBut_finish_pushIf _ _ f p
  | setDot p on pos => exact alikeBut_finish_pushIf _ _ f p
  | clear p => exact alikeBut_finish_pushIf _ _ f p
  | nop => exact alikeBut_finish_pushIf _ s f false
  | flush => exact alikeBut_finish_pushIf _ s f true
  | render frac base val =>
    cases hb : baseOf s.cfg base with
    | none =>
      rw [exec_render_of_none hb, exec_render_of_none (s := s.setFstate f) hb]
      exact alikeBut_finish_raise _ s f _
    | some b =>
      rw [exec_render_of_some hb, exec_render_of_some (s := s.setFstate f) hb]
      exact alikeBut_finish_pushIf _ (s.setBuf _) f true
  | facadeBegin => exact absurd rfl hi
  | dispOn => exact alikeBut_finish_cmd1 _ s f _
  | dispOff => exact alikeBut_finish_cmd1 _ s f _
  | setBright level => exact alikeBut_finish_cmd1 _ s f _
  | setBlink rate => exact alikeBut_finish_cmd1 _ s f _
  | wrChar p code =>
    simp only [exec, execWrChar, charBody_setFstate]
    exact alikeBut_finish_pushIf _ _ f p

/-- BEGIN either fails, in both Facade states at the same write, or ends in the same Active state from both. -/
theorem exec_begin_setFstate (s : State) (f : FState) :
    (∃ t, exec .facadeBegin s = .next t ∧ exec .facadeBegin (s.setFstate f) = .next (t.setFstate f) ∧
      t.fstate = s.fstate) ∨
    ∃ t, exec .facadeBegin s = .next t ∧ exec .facadeBegin (s.setFstate f) = .next t ∧ t.fstate = .active := by
  cases h₁ : s.nextAnswer with
  | fail => exact .inl ⟨_, exec_begin_of_first_failed h₁, exec_begin_of_first_failed h₁, rfl⟩
  | ok =>
    cases h₂ : (s.memWrite [0x21]).nextAnswer with
    | fail => exact .inl ⟨_, exec_begin_of_second_failed h₁ h₂, exec_begin_of_second_failed h₁ h₂, rfl⟩
    | ok =>
      cases h₃ : ((s.memWrite [0x21]).memWrite [0x81]).nextAnswer with
      | fail => exact .inl ⟨_, exec_begin_of_third_failed h₁ h₂ h₃, exec_begin_of_third_failed h₁ h₂ h₃, rfl⟩
      | ok => exact .inr ⟨_, exec_begin_of_accepted h₁ h₂ h₃, exec_begin_of_accepted h₁ h₂ h₃, rfl⟩

end Sys2Proof.Machine
end

section
/-! The statements of spec/44_facade.md. -/

namespace Sys2Proof.Proofs.FacadeRules

open Sys2Proof.Machine

/-! ### Device commands -/

/-- Settles O34: the three writes in turn, none of whose bytes is display-off. -/
theorem beginPowersUpAndBecomesActive : Obligations.BeginPowersUpAndBecomesActive := by
  intro s s₁ s₂ h₁ h₂ h₃
  obtain ⟨hbuf, ⟨hcursor, -, hinputs⟩, hresponses, htrace, hanswers, hfree⟩ :=
    (((sent_nil s).memWrite h₁ [0x21]).memWrite h₂ [0x81]).memWrite h₃ [0xEF]
  have hdevice : (s₂.memWrite [0xEF]).device = s.device := by
    rw [device_memWrite_of_accepted h₃ (by decide), device_memWrite_of_accepted h₂ (by decide),
      device_memWrite_of_accepted h₁ (by decide)]
  exact ⟨_, exec_begin_of_accepted h₁ h₂ h₃, rfl, hbuf, hcursor, hinputs, htrace, hdevice, hanswers, hfree,
    congrArg (· ++ [_]) hresponses⟩

/-- Settles O35: the writes before the failing one are all accepted, and BEGIN ends at the failing one. -/
theorem beginStopsAtTheFirstFailure : Obligations.BeginStopsAtTheFirstFailure := by
  refine fun s => ⟨fun h₁ => ?_, fun h₁ h₂ => ?_, fun h₁ h₂ h₃ => ?_⟩
  · rw [exec_begin_of_first_failed h₁]
    exact finish_raise_failed ((sent_nil s).memWrite h₁ _) h₁
  · rw [exec_begin_of_second_failed h₁ h₂]
    exact finish_raise_failed (((sent_nil s).memWrite h₁ _).memWrite h₂ _) h₂
  · rw [exec_begin_of_third_failed h₁ h₂ h₃]
    exact finish_raise_failed ((((sent_nil s).memWrite h₁ _).memWrite h₂ _).memWrite h₃ _) h₃

/-- Settles O36: each is one write of its byte. -/
theorem displayOnAndOffSendOneByte : Obligations.DisplayOnAndOffSendOneByte := fun s =>
  ⟨finish_cmd1 false displayOnByte s, finish_cmd1 false displayOffByte s⟩

/-- Settles O37: the command is one write of its byte, and the byte is the clamped level's. -/
theorem setBrightSendsTheClampedLevel : Obligations.SetBrightSendsTheClampedLevel := by
  intro level s
  rw [← brightnessByte_eq]
  exact finish_cmd1 false (brightnessByte level) s

/-- Settles O38: the command is one write of its byte, and the byte is the coerced rate's. -/
theorem setBlinkSendsTheCoercedRate : Obligations.SetBlinkSendsTheCoercedRate := by
  intro rate s
  rw [← blinkByte_eq]
  exact finish_cmd1 false (blinkByte rate) s

/-! ### WR_CHAR -/

/-- Settles O39: the digit is one cell write at the cursor and the cursor's advance, with the push after both. -/
theorem wrCharDigitIsWrittenAtTheCursor : Obligations.WrCharDigitIsWrittenAtTheCursor := by
  intro p d s
  rw [exec_wrChar_of_digitChar]
  obtain ⟨t, ht, hbuf, ⟨hcursor, hfstate, hinputs⟩, hpush⟩ := finish_pushIf true p
    ((s.cellWrite (s.cursor.toNat : Int) (cellOf s.cfg (glyph s.cfg.glyph (d.castLE (by decide))) false)).setCursor
      (advanceCursor s.cfg s.cursor))
  refine ⟨t, ht, fun q hq => ?_, ?_, hfstate, hinputs, hpush⟩
  · have hcell : (s.cursor.toNat : Int) = (q : Int) ∧ q ≤ 4 ↔ q = s.cursor.toNat := by omega
    simp only [hbuf, State.setCursor_buf, State.cellWrite_buf, Buf.get_cellWrite, cellOf_false, hcell]
    rfl
  · rw [hcursor, State.setCursor_cursor, advanceCursor_eq]

/-- Settles O40: newline and return move the cursor alone, and what is neither these nor a digit is only its push. -/
theorem wrCharNewlineAndOtherCharacters : Obligations.WrCharNewlineAndOtherCharacters := by
  refine fun p s => ⟨fun code hcode => ?_, fun code hnewline hreturn hdigit => ?_⟩
  · rw [exec_wrChar_of_newline ((isNewline_iff code).2 hcode)]
    obtain ⟨t, ht, hbuf, ⟨hcursor, hfstate, hinputs⟩, hpush⟩ := finish_pushIf true p (s.setCursor 0)
    exact ⟨t, ht, hbuf, hcursor, hfstate, hinputs, hpush⟩
  · rw [exec_wrChar_of_other (by rw [isNewline_iff]; omega) (by rw [isDigitChar_iff]; omega)]
    exact finish_pushIf false p s

/-! ### The Facade state -/

/-- Settles O56: the other commands neither read nor write the Facade state, and BEGIN only writes it, at its end. -/
theorem facadeStateGatesNothing : Obligations.FacadeStateGatesNothing := by
  intro i s f
  by_cases hi : i = .facadeBegin
  · subst hi
    obtain ⟨t, ht, hu, hfstate⟩ | ⟨t, ht, hu, hactive⟩ := exec_begin_setFstate s f
    · exact ⟨t, t.setFstate f, ht, hu, rfl, .inl ⟨hfstate, rfl⟩⟩
    · exact ⟨t, t, ht, hu, rfl, .inr ⟨rfl, hactive, hactive⟩⟩
  · obtain ⟨t, ht, hu⟩ := alikeBut_exec hi s f
    have hfstate : t.fstate = s.fstate :=
      (exec_effects ht).field_eq (StateRules.effect_fstate (row_ne_facadeBegin hi))
    exact ⟨t, t.setFstate f, ht, hu, rfl, .inl ⟨hfstate, rfl⟩⟩

end Sys2Proof.Proofs.FacadeRules
end

section
/-! SUPPORT. How every command ends: in one response, given to a progress that has answered nothing yet and that, where
a transport write failed, knows nothing of the device image (spec/60_exceptions.md R240, R245). -/

namespace Sys2Proof.Machine

/-- How far a command begun in `s` has come before its response. -/
structure Unanswered (s : State) (q : Progress) : Prop where
  responses : q.state.responses = s.responses
  device_of_failed : q.status = .transportFailure → q.state.device = []

section
variable {s : State}

theorem unanswered_proceed {u : State} (h : u.responses = s.responses) : Unanswered s (proceed u) :=
  ⟨h, nofun⟩

theorem unanswered_raise {e : Status} (he : e ≠ .transportFailure) : Unanswered s (raise e s) :=
  ⟨rfl, fun h => absurd h he⟩

theorem unanswered_xw (bytes : List Byte) {u : State} (h : u.responses = s.responses) :
    Unanswered s (xw bytes u) := by
  rw [xw_eq]
  refine ⟨h, fun hstatus => ?_⟩
  rw [State.memWrite_device]
  cases ha : u.nextAnswer with
  | ok =>
    rw [ha] at hstatus
    cases hstatus
  | fail => exact deviceAfter_fail u.cfg bytes u.device

theorem unanswered_pushIf (p : Bool) {u : State} (h : u.responses = s.responses) : Unanswered s (pushIf p u) := by
  cases p
  · exact unanswered_proceed h
  · exact unanswered_xw _ h

theorem Unanswered.andThen {q : Progress} {k : State → Progress} (hq : Unanswered s q)
    (hk : ∀ {u : State}, u.responses = s.responses → Unanswered s (k u)) : Unanswered s (andThen q k) := by
  by_cases h : q.status = .ok
  · rw [andThen_of_ok h]
    exact hk hq.responses
  · rw [andThen_of_raised h]
    exact hq

end

theorem execBegin_eq_finish (s : State) : ∃ q, execBegin s = finish false q ∧ Unanswered s q :=
  ⟨_, rfl, (unanswered_xw _ rfl).andThen fun h₁ => (unanswered_xw _ h₁).andThen fun h₂ =>
    (unanswered_xw _ h₂).andThen fun h₃ => unanswered_proceed h₃⟩

/-- Every command ends in its one response, whatever it did before. -/
theorem exec_eq_finish (i : Instr) (s : State) : ∃ w q, exec i s = finish w q ∧ Unanswered s q := by
  cases i with
  | wrGlyph p dot pos digit =>
    by_cases hd : digit < 16
    · exact ⟨_, _, exec_wrGlyph_of_lt p dot pos hd s, unanswered_pushIf p rfl⟩
    · exact ⟨_, _, exec_wrGlyph_of_not_lt p dot pos hd s, unanswered_raise (by decide)⟩
  | render frac base val =>
    cases hb : baseOf s.cfg base with
    | some b => exact ⟨_, _, exec_render_of_some hb frac val, unanswered_xw _ rfl⟩
    | none => exact ⟨_, _, exec_render_of_none hb frac val, unanswered_raise (by decide)⟩
  | facadeBegin => exact ⟨false, execBegin_eq_finish s⟩
  | wrChar p code =>
    obtain ⟨-, hresponses, -⟩ := Proofs.StateRules.charBody_outside code s
    exact ⟨_, _, rfl, unanswered_pushIf p hresponses⟩
  | wrDigit p | wrColon p | setDot p | clear p => exact ⟨_, _, rfl, unanswered_pushIf p rfl⟩
  | nop => exact ⟨_, _, rfl, unanswered_pushIf false rfl⟩
  | flush => exact ⟨_, _, rfl, unanswered_pushIf true rfl⟩
  | dispOn | dispOff | setBright | setBlink => exact ⟨_, _, rfl, unanswered_xw _ rfl⟩

/-- So does a command taken from the port, legal or not. -/
theorem runCommand_eq_finish (c : Command) (s : State) : ∃ w q, runCommand c s = finish w q ∧ Unanswered s q := by
  cases hd : decode c with
  | ok i =>
    rw [runCommand_of_ok hd]
    exact exec_eq_finish i s
  | error e =>
    rw [runCommand_of_error hd]
    exact ⟨_, _, rfl, unanswered_raise (by decide)⟩

theorem baseOf_eq_none_of_not_isBase (cfg : Config) {n : Nat} (h : ¬ IsBase n) : baseOf cfg n = none := by
  have hradix (b : Base) : IsBase (radix b) := by cases b <;> decide
  rw [Option.eq_none_iff_forall_ne_some]
  exact fun b hb => h (radix_baseOf hb ▸ hradix b)

end Sys2Proof.Machine
end

section
/-! The statements of spec/60_exceptions.md. -/

namespace Sys2Proof.Proofs.ExceptionRules

open Sys2Proof.Machine

/-! ### Every step and every command -/

/-- Settles O10: waiting and reset give their state outright, and a command ends in its response. -/
theorem everyStepCompletes : Obligations.EveryStepCompletes := by
  intro s
  rcases hh : s.host with _ | ⟨c | _, rest⟩
  · exact ⟨_, step_of_idle hh⟩
  · obtain ⟨w, q, hrun, -⟩ := runCommand_eq_finish c (s.setHost rest)
    exact ⟨_, (step_of_command hh).trans hrun⟩
  · exact ⟨_, step_of_reset hh⟩

/-- Settles O11: the response is the one the command ends in, and no effect touches what the host presents. -/
theorem everyCommandGivesOneResponse : Obligations.EveryCommandGivesOneResponse := by
  intro s c rest hh
  obtain ⟨w, q, hrun, hq⟩ := runCommand_eq_finish c (s.setHost rest)
  obtain ⟨r, he⟩ := runCommand_effects hrun
  exact ⟨_, _, (step_of_command hh).trans hrun, congrArg (· ++ [_]) hq.responses,
    he.field_eq StateRules.effect_host⟩

/-- Settles O55: a command keeps the Facade state or makes it Active, so only reset is left. -/
theorem activeIsLeftByResetOnly : Obligations.ActiveIsLeftByResetOnly := by
  intro s t hs h
  rcases hh : s.host with _ | ⟨c | _, rest⟩
  · rw [step_of_idle hh] at h
    cases h
    exact .inl hs
  · rw [step_of_command hh] at h
    obtain ⟨r, he⟩ := runCommand_effects h
    exact .inl ((StateRules.effects_fstate_or_active he).elim (·.trans hs) id)
  · exact .inr ⟨rest, rfl⟩

/-! ### The errors -/

/-- Settles O25: the response's status is that of the progress the command ended in, whose failed write left the image
empty. -/
theorem transportFailureLeavesImageUnknown : Obligations.TransportFailureLeavesImageUnknown := by
  intro i s t w h hresp a
  obtain ⟨w', q, hexec, hq⟩ := exec_eq_finish i s
  rw [hexec, finish_eq] at h
  cases h
  rw [State.respond_responses, hq.responses] at hresp
  obtain ⟨-, hstatus⟩ : w' = w ∧ q.status = .transportFailure := by simpa using hresp
  have hdevice : (q.state.respond ⟨w', q.status⟩).device = [] := hq.device_of_failed hstatus
  rw [deviceByte, hdevice]
  exact ⟨rfl, rfl⟩

/-- Settles O17: the port answers a word that does not decode, and nothing else. -/
theorem illegalCommandOnlyAnswers : Obligations.IllegalCommandOnlyAnswers := fun _ _ _ _ hh hd =>
  (step_of_command hh).trans (runCommand_of_error hd _)

/-- Settles O41: an unsupported base is the radix of no base, so RENDER ends at its base check. -/
theorem renderRejectsUnsupportedBase : Obligations.RenderRejectsUnsupportedBase := fun frac _ val s hbase =>
  exec_render_of_none (baseOf_eq_none_of_not_isBase s.cfg hbase) frac val

end Sys2Proof.Proofs.ExceptionRules
end

section
/-! SUPPORT. Variant A from magnitude 1 up: the digits emitted fit the slots (spec/42_render_a.md R152, R159,
spec/70_reset_and_hazards.md R277). -/

namespace Sys2Proof.Machine

/-- The `f` the loop answers is one that fits. -/
theorem scaledFloor_lt_of_reduceFrac {cfg : Config} {m b bound frac f : Nat}
    (h : reduceFrac cfg m b bound frac = some f) : scaledFloor cfg m b f < bound := by
  rcases reduceFrac_cases cfg m b bound frac with ⟨f', hf', -, hlt, -⟩ | ⟨hnone, -⟩
  · obtain rfl : f' = f := Option.some_inj.1 (hf'.symm.trans h)
    exact hlt
  · exact absurd (hnone.symm.trans h) (Option.some_ne_none f).symm

/-- A magnitude of 1 or more has a nonzero digit left of its fractional digits. -/
theorem pow_le_scaledFloor_of_one_le (cfg : Config) {val : ValWord} (hone : 1 ≤ |valueOf val|) (b f : Nat) :
    b ^ f ≤ scaledFloor cfg (valueMag val) b f := by
  have hscale : (b : ℚ) ^ f ≤ |valueOf val| * (b : ℚ) ^ f := le_mul_of_one_le_left (by positivity) hone
  rw [le_scaledFloor_iff]
  linarith

/-- A number below `b^k` whose fractional digits leave room for the ones digit is emitted in `k` slots. -/
theorem numEmitted_le {b N f k : Nat} (hb : 2 ≤ b) (hN : N < b ^ k) (hf : f < k) : numEmitted N b f ≤ k :=
  max_le ((isLeast_ndigits hb N).2 hN) hf

/-- The sign has the slot that the digits of a negative value leave. -/
theorem slots_add_sign (cfg : Config) (neg : Bool) : slots cfg neg + (if neg then 1 else 0) = 4 := by
  rw [slots_eq]
  cases neg <;> rfl

/-- From magnitude 1 up the scaled value is at least `b^f`, so a scaled value that fits has room for its ones digit and
for every digit emitted. -/
theorem numEmitted_le_slots {cfg : Config} {val : ValWord} {b : Base} {frac f : Nat} (hone : 1 ≤ |valueOf val|)
    (h : reduceFrac cfg (valueMag val) (radix b) (radix b ^ slots cfg (valueNeg val)) frac = some f) :
    numEmitted (scaledFloor cfg (valueMag val) (radix b) f) (radix b) f ≤ slots cfg (valueNeg val) := by
  have hb : 2 ≤ radix b := (radix_bounds b).1
  have hfits := scaledFloor_lt_of_reduceFrac h
  have hpow := (pow_le_scaledFloor_of_one_le cfg hone (radix b) f).trans_lt hfits
  exact numEmitted_le hb hfits ((Nat.pow_lt_pow_iff_right hb).1 hpow)

end Sys2Proof.Machine
end

section
/-! The statements of spec/70_reset_and_hazards.md. -/

namespace Sys2Proof.Proofs.HazardRules

open Sys2Proof.Machine

/-- Settles O47: the digits emitted and the sign have a slot each, and every slot is one of the four digit cells. -/
theorem fixedPointDropsNothingFromOneUp : Obligations.FixedPointDropsNothingFromOneUp := by
  intro frac b val s f hvariant hone hreduce N n
  have hslots : n + (if valueNeg val then 1 else 0) ≤ 4 :=
    (Nat.add_le_add_right (numEmitted_le_slots hone hreduce) _).trans_eq (slots_add_sign s.cfg (valueNeg val))
  obtain ⟨t, ht, hbuf, -⟩ := exec_render_paints (baseOf_radix s.cfg b) frac val
  rw [paintValue_of_variant_a hvariant, renderA_of_some hreduce] at hbuf
  refine ⟨le_max_right _ _, hslots, t, ht, fun i hi => ?_, fun hneg => ?_⟩
  · have hi3 : i ≤ 3 := by omega
    rw [hbuf, get_paintNumber _ _ hi3, if_pos hi, cellOf_eq]
    simp only [dotAt_iff]
    rfl
  · have hn3 : n ≤ 3 := by
      rw [if_pos hneg] at hslots
      omega
    rw [hbuf, get_paintNumber _ _ hn3, if_neg (lt_irrefl n), if_pos ⟨rfl, hneg⟩]

/-- Settles O21: the step with nothing presented is the wait. -/
theorem nothingPresentedNothingHappens : Obligations.NothingPresentedNothingHappens := fun _ hidle =>
  step_of_idle hidle

end Sys2Proof.Proofs.HazardRules
end
